-- ==== Sys2Proof/Word.lean ====
section
/-! DEFINITION. The two word types of the machine: bytes and register words. -/

namespace Sys2Proof

/-- A byte, `u8` (00_scope.md R9). -/
abbrev Byte := BitVec 8

/-- The contents of one register of the register space, `REGW = 32` bits (00_scope.md R7, decision D3). -/
abbrev Word := BitVec 32

end Sys2Proof
end

