-- ==== Sys2Proof/Config.lean ====
section
/-! DEFINITION. The parameters of 00_scope.md R7 as one record that a state carries, with the spec's defaults,
and the free values: constants without a value for everything the environment chooses. -/

namespace Sys2Proof

/-- The seven registers of the peripheral register block that the engine touches (10_state.md R35). -/
inductive Reg where
  | fifo | mctrl | txctrl | rxctrl | rxcnt | intfl0 | intfl1
  deriving DecidableEq, Repr

/-- All registers of the block, in the order of 10_state.md R35. -/
def Reg.all : List Reg := [.fifo, .mctrl, .txctrl, .rxctrl, .rxcnt, .intfl0, .intfl1]

/-- The seven single bits that step tables name: three of MCTRL (R37), the two flush bits (R38, R39) and the two
flags of INTFL0 that are polled and cleared (R41). -/
inductive FlagBit where
  | start | restart | stop | txflush | rxflush | rxthrf | stopf
  deriving DecidableEq, Repr

/-- The phase of the bus transaction, hidden state of PERIPHERAL (10_state.md R47). -/
inductive BusPhase where
  | idle | started | addressed | restarted | stopping
  deriving DecidableEq, Repr, Inhabited

/-- The named parameters of 00_scope.md R7. `REGW` is fixed at 32 and `ERRMASK` is computed from the seven masks. -/
structure Config where
  /-- `FIFO_DEPTH`, byte slots of the TX FIFO. -/
  fifoDepth : Nat
  /-- `BUFCAP`, bytes of payload buffer space. -/
  bufcap : Nat
  /-- `BASE`, the peripheral handle. DESIGN CHOICE: `BASE` and the offsets are natural numbers without a width, so a
  register's address never wraps; R7 says 'any' and no rule gives an address width (log 31). -/
  base : Nat
  offIntfl0 : Nat
  offIntfl1 : Nat
  offRxctrl : Nat
  offRxcnt : Nat
  offTxctrl : Nat
  offFifo : Nat
  offMctrl : Nat
  mStart : Word
  mRestart : Word
  mStop : Word
  mTxflush : Word
  mRxflush : Word
  mRxthrf : Word
  mStopf : Word
  mArb : Word
  mTo : Word
  mAnack : Word
  mDnack : Word
  mDnr : Word
  mStarterr : Word
  mStoperr : Word
  stOk : Word
  stBadParam : Word
  stCommErr : Word
  gpioDsMask : Word
  modeMaster : Word
  initOpts : Word
  deriving DecidableEq, Repr

namespace Config

/-- The byte offset of a register from `BASE` (00_scope.md R7, 20_memory.md R78). -/
def offset (c : Config) : Reg → Nat
  | .fifo => c.offFifo
  | .mctrl => c.offMctrl
  | .txctrl => c.offTxctrl
  | .rxctrl => c.offRxctrl
  | .rxcnt => c.offRxcnt
  | .intfl0 => c.offIntfl0
  | .intfl1 => c.offIntfl1

/-- The mask parameter of a named bit (00_scope.md R7). -/
def mask (c : Config) : FlagBit → Word
  | .start => c.mStart
  | .restart => c.mRestart
  | .stop => c.mStop
  | .txflush => c.mTxflush
  | .rxflush => c.mRxflush
  | .rxthrf => c.mRxthrf
  | .stopf => c.mStopf

/-- The seven error masks, in the order of 10_state.md R43. -/
def errMasks (c : Config) : List Word :=
  [c.mArb, c.mTo, c.mAnack, c.mDnack, c.mDnr, c.mStarterr, c.mStoperr]

/-- The opaque symbol `MODE_MASTER` (00_scope.md R7): no value is known of it (log 7). DESIGN CHOICE: it is one 32-bit
word; the spec gives it no type (log 27). -/
opaque symModeMaster : Word

/-- The opaque symbol `INIT_OPTS` (00_scope.md R7): no value is known of it (log 7). DESIGN CHOICE: it is one 32-bit
word; the spec gives it no type (log 27). -/
opaque symInitOpts : Word

/-- The defaults of 00_scope.md R7, recalled by the spec's author from general knowledge (93 G1, G2).
DESIGN CHOICE: `BASE`, which has no default, is 0 (log 7). -/
def default : Config where
  fifoDepth := 8
  bufcap := 6
  base := 0
  offIntfl0 := 0x08
  offIntfl1 := 0x10
  offRxctrl := 0x1C
  offRxcnt := 0x20
  offTxctrl := 0x24
  offFifo := 0x2C
  offMctrl := 0x30
  mStart := 0x1#32
  mRestart := 0x2#32
  mStop := 0x4#32
  mTxflush := 0x80#32
  mRxflush := 0x80#32
  mRxthrf := 0x10#32
  mStopf := 0x40#32
  mArb := 0x0100#32
  mTo := 0x0200#32
  mAnack := 0x0400#32
  mDnack := 0x0800#32
  mDnr := 0x1000#32
  mStarterr := 0x2000#32
  mStoperr := 0x4000#32
  stOk := 0x00000000#32
  stBadParam := 0xFFFFFFFD#32
  stCommErr := 0xFFFFFFF7#32
  gpioDsMask := 0x00000300#32
  modeMaster := symModeMaster
  initOpts := symInitOpts

/-! ### Free values

Each is a constant without a body, applied to the state's counter `freeCtr`: nothing is provable of its value
(20_memory.md R72, 93_implementation_defined.md U4, U12, U13, U16; log 28). -/

/-- What a register of the block holds at the environment's `n`-th free move; for `FIFO`, the bits of a read that the
spec leaves open (R72, U4, U13). -/
opaque freeReg (n : Nat) (r : Reg) : Word

/-- The TX FIFO's content at the environment's `n`-th free move (R47, R65). -/
opaque freeTxFifo (n : Nat) : List Byte

/-- The RX FIFO's content at the environment's `n`-th free move (R47, R65). -/
opaque freeRxFifo (n : Nat) : List Byte

/-- The bus phase at the environment's `n`-th free move (R47). -/
opaque freePhase (n : Nat) : BusPhase

/-- The value a collaborator returns in its `n`-th free reply (U16). -/
opaque freeCallReturn (n : Nat) : Word

/-- The value the configuration field of a collaborator is left with where the spec does not say
(45_init.md R192 step 1, U12). -/
opaque freeCallField (n : Nat) : Word

end Config

end Sys2Proof
end

