-- ==== Sys2Proof/Syntax.lean ====
section
/-! DEFINITION. The four commands, one constructor for each row of spec/opcode_table.json. -/

namespace Sys2Proof

/-- A command with its operands at the types of 30_encoding.md R100. The payload of `BUFWR` is not part of the
descriptor: it stands in the payload buffer space (R103). The `handle` of every operation is the parameter `BASE`. -/
inductive Instr where
  /-- `REGWR addr, reg, val` (42_regwr.md R160). -/
  | regwr (addr reg val : Byte)
  /-- `BUFWR addr, reg, len` (43_bufwr.md R170); `len` is signed (10_state.md R25). -/
  | bufwr (addr reg : Byte) (len : Word)
  /-- `REGRD addr, reg` (44_regrd.md R180). -/
  | regrd (addr reg : Byte)
  /-- `INIT speed` (45_init.md R190); `speed` is unsigned (10_state.md R26). -/
  | init (speed : Word)
  deriving DecidableEq, Repr

end Sys2Proof
end

