-- ==== Sys2Proof/Decode.lean ====
section
/-! DEFINITION. The command descriptor of 30_encoding.md: decoding its bytes, encoding a command, and the opcode map. -/

namespace Sys2Proof

/-- Why a descriptor encodes no command (30_encoding.md R101, R107). -/
inductive DecodeError where
  /-- Fewer bytes than the length that bits [7:0] of word 0 call for (R101). -/
  | short
  /-- `OPC` is 0x00 or above 0x04 (R107). -/
  | reservedOpcode
  /-- A field that must be zero is not (R102, R107). -/
  | mustBeZero
  deriving DecidableEq, Repr

/-- One row of the opcode map of 30_encoding.md R105: word 0 is the row's command when `w & mask = pattern`. -/
structure OpcodeRow where
  mnemonic : String
  words : Nat
  mask : Word
  pattern : Word
  deriving DecidableEq, Repr

/-- The opcode map of 30_encoding.md R105. -/
def opcodeTable : List OpcodeRow :=
  [ { mnemonic := "REGWR", words := 1, mask := 0x000000FF#32, pattern := 0x00000001#32 },
    { mnemonic := "BUFWR", words := 2, mask := 0xFF0000FF#32, pattern := 0x00000002#32 },
    { mnemonic := "REGRD", words := 1, mask := 0xFF0000FF#32, pattern := 0x00000003#32 },
    { mnemonic := "INIT", words := 2, mask := 0xFFFFFFFF#32, pattern := 0x00000004#32 } ]

/-- The row a word 0 belongs to, if any. -/
def opcodeRow (w : Word) : Option OpcodeRow := opcodeTable.find? fun r => w &&& r.mask == r.pattern

/-- `w[lo + n - 1 : lo]` (00_scope.md R9). -/
def bitField (w : Word) (lo n : Nat) : BitVec n := w.extractLsb' lo n

/-- Word 0, bits [7:0] (30_encoding.md R102). -/
def fieldOpc (w : Word) : Byte := bitField w 0 8

/-- Word 0, bits [15:8]. -/
def fieldAddr (w : Word) : Byte := bitField w 8 8

/-- Word 0, bits [23:16]. -/
def fieldReg (w : Word) : Byte := bitField w 16 8

/-- Word 0, bits [31:24]. -/
def fieldVal (w : Word) : Byte := bitField w 24 8

/-- Word 0 from its four fields, the highest first. -/
def packWord0 (val reg addr opc : Byte) : Word := val ++ reg ++ addr ++ opc

/-- A word stored little-endian: bits [7:0] at the lowest address (30_encoding.md R108). -/
def bytesOfWord (w : Word) : List Byte := [bitField w 0 8, bitField w 8 8, bitField w 16 8, bitField w 24 8]

/-- The little-endian word of four bytes, lowest address first (30_encoding.md R108). -/
def wordOfBytes (b0 b1 b2 b3 : Byte) : Word := b3 ++ b2 ++ b1 ++ b0

/-- The first word of a list of bytes and the bytes after it. -/
def takeWord : List Byte → Option (Word × List Byte)
  | b0 :: b1 :: b2 :: b3 :: rest => some (wordOfBytes b0 b1 b2 b3, rest)
  | _ => none

/-- Word 1, which follows word 0. -/
def withWord1 (rest : List Byte) (f : Word → Instr) : Except DecodeError (Instr × List Byte) :=
  match takeWord rest with
  | some (w1, rest') => .ok (f w1, rest')
  | none => .error .short

/-- Decodes a descriptor from its bytes, lowest address first; answers the bytes after it too. The length is told from
bits [7:0] of word 0 alone (R101); unused fields must be zero (R107). -/
def decode (bytes : List Byte) : Except DecodeError (Instr × List Byte) :=
  match takeWord bytes with
  | none => .error .short
  | some (w0, rest) =>
    if fieldOpc w0 = 0x01#8 then .ok (.regwr (fieldAddr w0) (fieldReg w0) (fieldVal w0), rest)
    else if fieldOpc w0 = 0x02#8 then
      if fieldVal w0 = 0#8 then withWord1 rest fun w1 => .bufwr (fieldAddr w0) (fieldReg w0) w1
      else .error .mustBeZero
    else if fieldOpc w0 = 0x03#8 then
      if fieldVal w0 = 0#8 then .ok (.regrd (fieldAddr w0) (fieldReg w0), rest) else .error .mustBeZero
    else if fieldOpc w0 = 0x04#8 then
      if fieldVal w0 = 0#8 ∧ fieldReg w0 = 0#8 ∧ fieldAddr w0 = 0#8 then withWord1 rest fun w1 => .init w1
      else .error .mustBeZero
    else .error .reservedOpcode

/-- The operation code of a command (30_encoding.md R105). -/
def Instr.opcode : Instr → Byte
  | .regwr _ _ _ => 0x01#8
  | .bufwr _ _ _ => 0x02#8
  | .regrd _ _ => 0x03#8
  | .init _ => 0x04#8

/-- Word 0 of a command (30_encoding.md R102). -/
def Instr.word0 : Instr → Word
  | .regwr addr reg val => packWord0 val reg addr 0x01#8
  | .bufwr addr reg _ => packWord0 0#8 reg addr 0x02#8
  | .regrd addr reg => packWord0 0#8 reg addr 0x03#8
  | .init _ => packWord0 0#8 0#8 0#8 0x04#8

/-- The words of a command (30_encoding.md R102 to R104). -/
def encodeWords : Instr → List Word
  | .regwr addr reg val => [Instr.word0 (.regwr addr reg val)]
  | .bufwr addr reg len => [Instr.word0 (.bufwr addr reg len), len]
  | .regrd addr reg => [Instr.word0 (.regrd addr reg)]
  | .init speed => [Instr.word0 (.init speed), speed]

/-- The bytes of a command's descriptor, lowest address first (30_encoding.md R108). -/
def encode (i : Instr) : List Byte := (encodeWords i).flatMap bytesOfWord

/-- The eight bytes of a two-word slot that holds the low `nbits` bits of `w`, numbered as spec/opcode_table.json numbers
them, and zeros above. -/
def tableBytes (nbits w : Nat) : List Byte :=
  (List.range 8).map fun k => BitVec.ofNat 8 ((w % 2 ^ nbits) >>> (8 * k))

/-- The command the decoder reads from a table word. -/
def decodeTableWord (nbits w : Nat) : Option Instr :=
  match decode (tableBytes nbits w) with
  | .ok (i, _) => some i
  | .error _ => none

end Sys2Proof
end

