-- ==== Sys2Proof/Machine/State.lean ====
section
/-! DEFINITION. The machine's state as plain data, the reasons a step can stop, and the state after reset. -/

namespace Sys2Proof.Machine

/-- The twelve engine registers (10_state.md R20 to R33). -/
structure Engine where
  /-- `OP`, the operation code of the running command (R21). -/
  op : Byte
  /-- `ADDR`, the framed address byte (R22). -/
  addr : Byte
  /-- `REG`, the register address inside the device (R23). -/
  reg : Byte
  /-- `VAL`, the value byte of `REGWR` (R24). -/
  val : Byte
  /-- `LEN`, signed, the byte count of `BUFWR` (R25). -/
  len : Word
  /-- `SPEED`, unsigned, the operand of `INIT` (R26). -/
  speed : Word
  /-- `STATUS`, signed, written once per command at completion (R27). -/
  status : Word
  /-- `RDATA`, the destination byte (R28, R63). -/
  rdata : Byte
  /-- `IDX`, unsigned, the index of the next payload byte (R29). -/
  idx : Word
  /-- `T`, the value of the most recent register read (R30). -/
  t : Word
  /-- `BUSY` (R31). -/
  busy : Bool
  /-- `UPC`, the number of the next micro-step (R32); `CHK` is 31 (R33). A natural number: the spec fixes no width and no
  wrap-around (log 9). -/
  upc : Nat
  deriving DecidableEq, Repr

/-- The payload buffer space: (index, byte) pairs, indices strictly rising; an index not listed holds no value
(20_memory.md R62). -/
abbrev Memory := List Host.Cell

/-- The canonical form of the payload buffer space. -/
def Memory.wf (m : Memory) : Bool := decide (m.Pairwise fun a b => a.1 < b.1)

/-- The peripheral register block and the hidden state behind it (10_state.md R35 to R43, R47): the environment's, moved
by PERIPHERAL between ENGINE's accesses. -/
structure Periph where
  mctrl : Word
  txctrl : Word
  rxctrl : Word
  rxcnt : Word
  intfl0 : Word
  intfl1 : Word
  /-- What a read of `FIFO` returns in bits [31:8], and in all its bits while the RX FIFO is empty: open (R36, U4). -/
  fifoOpen : Word
  /-- The TX FIFO, head first (R65). -/
  txFifo : List Byte
  /-- The RX FIFO, head first (R65). -/
  rxFifo : List Byte
  /-- The phase of the bus transaction (R47). -/
  phase : BusPhase
  deriving DecidableEq, Repr

/-- The configuration state reached only through collaborators (10_state.md R44). -/
structure PeriphConfig where
  mode : Word
  hz : Word
  txthr : Word
  rxthr : Word
  gpioDs : Word
  deriving DecidableEq, Repr

/-- A request on the bus, as the reference mock logs it (20_memory.md R81). -/
inductive BusEvent where
  | start | restart | stop
  deriving DecidableEq, Repr

/-- Which of the seven error flags of 10_state.md R43 a script names. -/
structure ErrorFlags where
  arb : Bool
  timeout : Bool
  anack : Bool
  dnack : Bool
  dnr : Bool
  starterr : Bool
  stoperr : Bool
  deriving DecidableEq, Repr

/-- No error flag. -/
def ErrorFlags.none : ErrorFlags where
  arb := false
  timeout := false
  anack := false
  dnack := false
  dnr := false
  starterr := false
  stoperr := false

/-- The reference mock peripheral beside its registers and FIFOs, which are those of `Periph` (20_memory.md R81). A
countdown is `none` when it is off; a delay is `none` when it is `never`. -/
structure Mock where
  txlog : List Byte
  evlog : List BusEvent
  afterRestart : Bool
  cTxf : Option Nat
  cRxf : Option Nat
  cRst : Option Nat
  cRxt : Option Nat
  cStp : Option Nat
  /-- Script: the bytes the device will return. -/
  rxbytes : List Byte
  /-- Script: the error flags raised at STOP. Held as flags, so that `errinj & ~ERRMASK = 0` (R81) cannot be broken; its
  word is `errWord`. -/
  errinj : ErrorFlags
  dTxf : Option Nat
  dRxf : Option Nat
  dRst : Option Nat
  dRxt : Option Nat
  dStp : Option Nat
  /-- Script: what each collaborator returns; `none` is its default (R88). -/
  retInit : Option Word
  retFreq : Option Word
  retTxthr : Option Word
  retRxthr : Option Word
  deriving DecidableEq, Repr

/-- The mock in its initial state with the default script (20_memory.md R81). -/
def Mock.initial : Mock where
  txlog := []
  evlog := []
  afterRestart := false
  cTxf := none
  cRxf := none
  cRst := none
  cRxt := none
  cStp := none
  rxbytes := []
  errinj := ErrorFlags.none
  dTxf := some 0
  dRxf := some 0
  dRst := some 0
  dRxt := some 0
  dStp := some 0
  retInit := none
  retFreq := none
  retTxthr := none
  retRxthr := none

/-- The four opaque calls of initialization (45_init.md R191). -/
inductive Collaborator where
  | peripheralInit | setFrequency | setTxThreshold | setRxThreshold
  deriving DecidableEq, Repr

/-- The environment's answer to one collaborator call: the value returned, and the value the call's configuration field
is left with where the spec does not say (45_init.md R192, U12, U16). -/
structure CallReply where
  ret : Word
  field : Word
  deriving DecidableEq, Repr

/-- A collaborator call with its arguments, as the trace records it (00_scope.md R11, 45_init.md R192). -/
inductive CallRecord where
  | peripheralInit (handle : Nat) (mode opts : Word)
  | setFrequency (handle : Nat) (hz : Word)
  | setTxThreshold (handle : Nat) (n : Word)
  | setRxThreshold (handle : Nat) (n : Word)
  | gpioDriveStrength (mask : Word)
  deriving DecidableEq, Repr

/-- One entry of the access trace (00_scope.md R11): `R(REG, value)`, `W(REG, value)`, `C(name, args, ret)`; the GPIO
action returns nothing. -/
inductive TraceEntry where
  | read (r : Reg) (v : Word)
  | write (r : Reg) (v : Word)
  | call (c : CallRecord) (ret : Option Word)
  deriving DecidableEq, Repr

/-- What an agent outside the engine can do to it (00_scope.md R6, 20_memory.md R62, R75, 30_encoding.md R109). -/
inductive HostAction where
  /-- HOST presents a descriptor, its bytes lowest address first. -/
  | present (bytes : List Byte)
  /-- HOST stores one byte of the payload buffer space. -/
  | storeByte (index : Nat) (b : Byte)
  /-- HOST passes `buf`, the buffer of the calls that follow (30_encoding.md R103, R111). -/
  | passBuffer (buf : List Byte)
  /-- Another agent accesses the peripheral's register block. -/
  | foreignAccess
  deriving DecidableEq, Repr

/-- The machine's state: everything the spec gives it, and the model's own inputs and trace. -/
structure State where
  /-- The parameters (00_scope.md R7); no step writes them. -/
  cfg : Config
  /-- The engine registers (10_state.md section 1). -/
  eng : Engine
  /-- The payload buffer space (10_state.md R46). -/
  payload : Memory
  /-- The peripheral register block as PERIPHERAL last left it or ENGINE last wrote it (10_state.md section 4). -/
  periph : Periph
  /-- The configuration state behind the collaborators (10_state.md R44). -/
  env : PeriphConfig
  /-- The reference mock, or `none`: the environment without constraint (20_memory.md R72). -/
  mock : Option Mock
  /-- Where PERIPHERAL will have moved to before each coming access, when there is no mock. -/
  turns : List Periph
  /-- What the collaborators will answer, when there is no mock. -/
  calls : List CallReply
  /-- How many free values have been drawn; the model's own (log 28). -/
  freeCtr : Nat
  /-- The action that arrives now: the command port (log 12). -/
  input : Option HostAction
  /-- HOST's actions still to come; HOST is blocked while `BUSY` is 1 (log 12). -/
  host : List HostAction
  /-- The access trace, oldest entry first (00_scope.md R11, 60_exceptions.md R216). -/
  trace : List TraceEntry
  deriving DecidableEq, Repr

/-- Reasons the machine stops with a fault. -/
inductive Fault where
  /-- Raised by `runRow`: `UPC` names no step of the running command's table, which 10_state.md R32 excludes. Safe: no run
  from an idle engine reaches it. -/
  | stepOutsideTable
  /-- Raised by `resume`: `BUSY` is 1 and `OP` is no operation code, which 10_state.md R21 excludes. Safe. -/
  | noRunningCommand
  /-- Raised by `bufRead` and `hostAct`: an index outside `0 .. BUFCAP - 1`, which the payload buffer space does not have
  (10_state.md R46, 20_memory.md R62). Safe. -/
  | outsidePayloadBuffer
  deriving DecidableEq, Repr

/-- Situations to which the spec gives no meaning: each is a `refuse` of 93_implementation_defined.md. -/
inductive Refusal where
  /-- An instruction whose meaning is not written yet, by its mnemonic: raised by no arm of `exec`. Safe. -/
  | notModelled (mnemonic : String)
  /-- Raised by `present`: the bytes encode no command (30_encoding.md R107, U8). Safe: the spec refuses it. -/
  | illegalDescriptor (e : DecodeError)
  /-- Raised by `present` and `runCommand`: a descriptor while `BUSY` is 1 (30_encoding.md R109, U9). Safe. -/
  | issueWhileBusy
  /-- Raised by `chklen`: a negative `LEN` (40_microops.md R140, U1). Safe. -/
  | negativeLength
  /-- Raised by `bufRead`: a payload byte HOST has not written (20_memory.md R62, U11). Safe. -/
  | unwrittenBufferByte
  /-- Raised by `runCommand`: a configuration that breaks a constraint of 00_scope.md R7 or R8 (U3). Safe. -/
  | badConfiguration
  /-- Raised by `hostAct`: another agent touches the register block or the payload while `BUSY` is 1 (20_memory.md R75,
  R76, 70_reset_and_hazards.md R245, U5). Safe. -/
  | exclusiveAccessViolated
  /-- Raised by `memRead` and `memWrite`: an address that is none of the seven registers (20_memory.md R80). Safe. -/
  | outOfMapAccess
  /-- Raised by `memRead`: the reference mock's RX FIFO is empty, "the vector is ill-formed" (20_memory.md R85). Safe. -/
  | mockHasNoAnswer
  deriving DecidableEq, Repr

/-- The engine after reset: `BUSY = 0` (10_state.md R48). DESIGN CHOICE: every other register, which the spec leaves
unspecified, holds 0 (log 3). -/
def Engine.reset : Engine where
  op := 0#8
  addr := 0#8
  reg := 0#8
  val := 0#8
  len := 0#32
  speed := 0#32
  status := 0#32
  rdata := 0#8
  idx := 0#32
  t := 0#32
  busy := false
  upc := 0

/-- The peripheral after reset, unspecified (10_state.md R49). DESIGN CHOICE: zero, empty, idle (log 4); without a mock no
access ever sees these values, since PERIPHERAL moves before each. It is also the mock's initial state (R81). -/
def Periph.zero : Periph where
  mctrl := 0#32
  txctrl := 0#32
  rxctrl := 0#32
  rxcnt := 0#32
  intfl0 := 0#32
  intfl1 := 0#32
  fifoOpen := 0#32
  txFifo := []
  rxFifo := []
  phase := .idle

/-- The configuration state after reset, unspecified (10_state.md R44, R49). DESIGN CHOICE: zero (log 4). -/
def PeriphConfig.zero : PeriphConfig where
  mode := 0#32
  hz := 0#32
  txthr := 0#32
  rxthr := 0#32
  gpioDs := 0#32

/-- The machine right after reset (10_state.md R48, R49, 70_reset_and_hazards.md R240, R241): idle, no payload byte
written, the environment without constraint, HOST with nothing to do. -/
def State.reset : State where
  cfg := Config.default
  eng := Engine.reset
  payload := []
  periph := Periph.zero
  env := PeriphConfig.zero
  mock := none
  turns := []
  calls := []
  freeCtr := 0
  input := none
  host := []
  trace := []

end Sys2Proof.Machine
end

