-- ==== Sys2Proof/Machine/Flags.lean ====
section
/-! DEFINITION. Every flag test and flag update of the engine and of the register block (10_state.md R34, R41, R43;
40_microops.md R132, R134 to R136, R138, R139, R142 (c); 20_memory.md R66). -/

namespace Sys2Proof.Machine

/-- `v & mask != 0` (40_microops.md R142 (c)). -/
def anySet (v mask : Word) : Bool := (v &&& mask) != 0#32

/-- The bitwise OR of the seven error masks, `ERRMASK` (10_state.md R43). -/
def errMask (c : Config) : Word :=
  c.mArb ||| c.mTo ||| c.mAnack ||| c.mDnack ||| c.mDnr ||| c.mStarterr ||| c.mStoperr

/-- A mask where a flag is named, no bit where it is not. -/
def flagBit (b : Bool) (mask : Word) : Word := if b then mask else 0#32

/-- The word of a set of error flags: the OR of their masks, so no bit outside `ERRMASK` (20_memory.md R81). -/
def errWord (c : Config) (e : ErrorFlags) : Word :=
  flagBit e.arb c.mArb ||| flagBit e.timeout c.mTo ||| flagBit e.anack c.mAnack ||| flagBit e.dnack c.mDnack |||
    flagBit e.dnr c.mDnr ||| flagBit e.starterr c.mStarterr ||| flagBit e.stoperr c.mStoperr

/-- The error detector's test: at least one of the seven error bits is 1 (40_microops.md R139). -/
def errorSeen (c : Config) (v : Word) : Bool := anySet v (errMask c)

/-- What the write half of a read-modify-write writes: every bit as read, the masked bit set (40_microops.md R132). -/
def orMask (v mask : Word) : Word := v ||| mask

/-- What a write of `v` leaves of a flag register: each flag whose bit is 1 in `v` is cleared, each other flag is as it
was (20_memory.md R66). -/
def writeOneToClear (old v : Word) : Word := old &&& ~~~v

end Sys2Proof.Machine
end

