-- ==== Sys2Proof/Machine/Peripheral.lean ====
section
/-! DEFINITION. PERIPHERAL without a mock: it moves freely before every access (20_memory.md R64, R72), and reacts to an
access as R65 to R70 say. -/

namespace Sys2Proof.Machine

/-- `v` with its low byte replaced. -/
def withLowByte (v : Word) (b : Byte) : Word := (v &&& 0xFFFFFF00#32) ||| b.setWidth 32

/-- PERIPHERAL's `n`-th free move: any register block and any hidden state (20_memory.md R72, 10_state.md R47). -/
def freePeriph (n : Nat) : Periph where
  mctrl := Config.freeReg n .mctrl
  txctrl := Config.freeReg n .txctrl
  rxctrl := Config.freeReg n .rxctrl
  rxcnt := Config.freeReg n .rxcnt
  intfl0 := Config.freeReg n .intfl0
  intfl1 := Config.freeReg n .intfl1
  fifoOpen := Config.freeReg n .fifo
  txFifo := Config.freeTxFifo n
  rxFifo := Config.freeRxFifo n
  phase := Config.freePhase n

/-- Where PERIPHERAL has moved to before the next access, and the environment's queue after it: the head of the queue, a
free move once the queue is empty. The mock moves at accesses only. -/
def envTurn (s : State) : State :=
  match s.mock with
  | some _ => s
  | none =>
    match s.turns with
    | p :: ps => { s with periph := p, turns := ps }
    | [] => { s with periph := freePeriph s.freeCtr, freeCtr := s.freeCtr + 1 }

/-- The value a read of `FIFO` returns: the head of the RX FIFO in bits [7:0], the other bits open; all bits open when the
RX FIFO is empty (20_memory.md R65, 93 U4, U13). -/
def fifoReadValue (p : Periph) : Word :=
  match p.rxFifo with
  | b :: _ => withLowByte p.fifoOpen b
  | [] => p.fifoOpen

/-- The value a read of a register returns. -/
def periphReadValue (r : Reg) (p : Periph) : Word :=
  match r with
  | .fifo => fifoReadValue p
  | .mctrl => p.mctrl
  | .txctrl => p.txctrl
  | .rxctrl => p.rxctrl
  | .rxcnt => p.rxcnt
  | .intfl0 => p.intfl0
  | .intfl1 => p.intfl1

/-- The register block after a read: a read of `FIFO` removes the head of the RX FIFO (20_memory.md R65); no other read
has a side effect (R66). -/
def periphAfterRead (r : Reg) (p : Periph) : Periph :=
  match r with
  | .fifo => { p with rxFifo := p.rxFifo.tail }
  | .mctrl | .txctrl | .rxctrl | .rxcnt | .intfl0 | .intfl1 => p

/-- The register block right after a write (20_memory.md R65 to R70): `FIFO` pushes bits [7:0] onto the TX FIFO's tail, the
flag registers are write-one-to-clear, the others hold the value written; what PERIPHERAL does on a request comes
with its later moves. -/
def periphAfterWrite (r : Reg) (v : Word) (p : Periph) : Periph :=
  match r with
  | .fifo => { p with txFifo := p.txFifo ++ [v.setWidth 8] }
  | .mctrl => { p with mctrl := v }
  | .txctrl => { p with txctrl := v }
  | .rxctrl => { p with rxctrl := v }
  | .rxcnt => { p with rxcnt := v }
  | .intfl0 => { p with intfl0 := writeOneToClear p.intfl0 v }
  | .intfl1 => { p with intfl1 := writeOneToClear p.intfl1 v }

/-- The environment's reply to a collaborator call, and the state after it was drawn: the head of the queue, a free value
once the queue is empty (45_init.md R191). -/
def freeReply (s : State) : CallReply × State :=
  match s.calls with
  | a :: as => (a, { s with calls := as })
  | [] =>
    ({ ret := Config.freeCallReturn s.freeCtr, field := Config.freeCallField s.freeCtr },
      { s with freeCtr := s.freeCtr + 1 })

end Sys2Proof.Machine
end

