-- ==== Sys2Proof/Machine/Mock.lean ====
section
/-! DEFINITION. The reference mock peripheral of 20_memory.md R81 to R88. Its registers and FIFOs are those of
`Periph`. -/

namespace Sys2Proof.Machine

/-- Whether a tick fires a countdown: only one that stands at 0 (20_memory.md R82). -/
def fires : Option Nat → Bool
  | some 0 => true
  | _ => false

/-- A countdown after a tick: one that fired is off (20_memory.md R82). -/
def ticked : Option Nat → Option Nat
  | some (n + 1) => some n
  | _ => none

/-- Arming a countdown with a delay; `never` leaves it off (20_memory.md R82). -/
def armed (delay : Option Nat) : Option Nat := delay

/-- `R(TXCTRL)`: tick `c_txf`, whose firing clears `TXFLUSH` (20_memory.md R83). -/
def mockReadTxctrl (c : Config) (p : Periph) (m : Mock) : Word × Periph × Mock :=
  let v := if fires m.cTxf then p.txctrl &&& ~~~c.mTxflush else p.txctrl
  (v, { p with txctrl := v }, { m with cTxf := ticked m.cTxf })

/-- `R(RXCTRL)`: likewise (20_memory.md R83). -/
def mockReadRxctrl (c : Config) (p : Periph) (m : Mock) : Word × Periph × Mock :=
  let v := if fires m.cRxf then p.rxctrl &&& ~~~c.mRxflush else p.rxctrl
  (v, { p with rxctrl := v }, { m with cRxf := ticked m.cRxf })

/-- `R(MCTRL)`: tick `c_rst`, whose firing clears `RESTART` (20_memory.md R84). -/
def mockReadMctrl (c : Config) (p : Periph) (m : Mock) : Word × Periph × Mock :=
  let v := if fires m.cRst then p.mctrl &&& ~~~c.mRestart else p.mctrl
  (v, { p with mctrl := v }, { m with cRst := ticked m.cRst })

/-- The tick of `c_rxt`: its firing moves the first `min(RXCNT[7:0], length(rxbytes))` bytes of `rxbytes` to the tail of
the RX FIFO and sets `RXTHRF` if the RX FIFO is then not empty (20_memory.md R86). -/
def mockTickRxt (c : Config) (p : Periph) (m : Mock) : Periph × Mock :=
  if fires m.cRxt then
    let n := (bitField p.rxcnt 0 8).toNat
    let rx := p.rxFifo ++ m.rxbytes.take n
    ({ p with rxFifo := rx, intfl0 := if rx.isEmpty then p.intfl0 else p.intfl0 ||| c.mRxthrf },
      { m with rxbytes := m.rxbytes.drop n, cRxt := ticked m.cRxt })
  else (p, { m with cRxt := ticked m.cRxt })

/-- The tick of `c_stp`: its firing sets `STOPF` and the injected error flags (20_memory.md R86). -/
def mockTickStp (c : Config) (p : Periph) (m : Mock) : Periph × Mock :=
  ({ p with intfl0 := if fires m.cStp then p.intfl0 ||| c.mStopf ||| errWord c m.errinj else p.intfl0 },
    { m with cStp := ticked m.cStp })

/-- `R(INTFL0)`: tick `c_rxt`, then `c_stp`, then return the register (20_memory.md R86). -/
def mockReadIntfl0 (c : Config) (p : Periph) (m : Mock) : Word × Periph × Mock :=
  let x := mockTickRxt c p m
  let y := mockTickStp c x.1 x.2
  (y.1.intfl0, y.1, y.2)

/-- `R(FIFO)`: the head of the RX FIFO, zero-extended; no answer when it is empty (20_memory.md R85). -/
def mockReadFifo (p : Periph) (m : Mock) : Option (Word × Periph × Mock) :=
  match p.rxFifo with
  | h :: rest => some (h.setWidth 32, { p with rxFifo := rest }, m)
  | [] => none

/-- The mock's answer to a read (20_memory.md R83 to R87). -/
def mockRead (c : Config) (r : Reg) (p : Periph) (m : Mock) : Option (Word × Periph × Mock) :=
  match r with
  | .fifo => mockReadFifo p m
  | .mctrl => some (mockReadMctrl c p m)
  | .txctrl => some (mockReadTxctrl c p m)
  | .rxctrl => some (mockReadRxctrl c p m)
  | .rxcnt => some (p.rxcnt, p, m)
  | .intfl0 => some (mockReadIntfl0 c p m)
  | .intfl1 => some (p.intfl1, p, m)

/-- `W(MCTRL, v)`: log the requests in the order START, RESTART, STOP; arm the countdowns; `START` and `STOP` read back
as 0 at once (20_memory.md R84). -/
def mockWriteMctrl (c : Config) (v : Word) (p : Periph) (m : Mock) : Periph × Mock :=
  let m1 := if anySet v c.mStart then { m with evlog := m.evlog ++ [.start] } else m
  let m2 :=
    if anySet v c.mRestart then
      { m1 with evlog := m1.evlog ++ [.restart], afterRestart := true, cRst := armed m1.dRst }
    else m1
  let m3 := if anySet v c.mStop then { m2 with evlog := m2.evlog ++ [.stop], cStp := armed m2.dStp } else m2
  ({ p with mctrl := v &&& ~~~(c.mStart ||| c.mStop) }, m3)

/-- `W(TXCTRL, v)`: a set `TXFLUSH` empties the TX FIFO and arms `c_txf` (20_memory.md R83). -/
def mockWriteTxctrl (c : Config) (v : Word) (p : Periph) (m : Mock) : Periph × Mock :=
  if anySet v c.mTxflush then ({ p with txctrl := v, txFifo := [] }, { m with cTxf := armed m.dTxf })
  else ({ p with txctrl := v }, m)

/-- `W(RXCTRL, v)`: likewise for the RX FIFO (20_memory.md R83). -/
def mockWriteRxctrl (c : Config) (v : Word) (p : Periph) (m : Mock) : Periph × Mock :=
  if anySet v c.mRxflush then ({ p with rxctrl := v, rxFifo := [] }, { m with cRxf := armed m.dRxf })
  else ({ p with rxctrl := v }, m)

/-- `W(FIFO, v)`: push and log the byte; the first push after a RESTART with bit 0 set arms `c_rxt`
(20_memory.md R85). -/
def mockWriteFifo (v : Word) (p : Periph) (m : Mock) : Periph × Mock :=
  let b : Byte := v.setWidth 8
  ({ p with txFifo := p.txFifo ++ [b] },
    { m with
      txlog := m.txlog ++ [b]
      afterRestart := false
      cRxt := if m.afterRestart && v.getLsbD 0 then armed m.dRxt else m.cRxt })

/-- The mock after a write (20_memory.md R83 to R87). -/
def mockWrite (c : Config) (r : Reg) (v : Word) (p : Periph) (m : Mock) : Periph × Mock :=
  match r with
  | .fifo => mockWriteFifo v p m
  | .mctrl => mockWriteMctrl c v p m
  | .txctrl => mockWriteTxctrl c v p m
  | .rxctrl => mockWriteRxctrl c v p m
  | .rxcnt => ({ p with rxcnt := v }, m)
  | .intfl0 => ({ p with intfl0 := writeOneToClear p.intfl0 v }, m)
  | .intfl1 => ({ p with intfl1 := writeOneToClear p.intfl1 v }, m)

/-- What a collaborator returns under the mock: the scripted value, else the default (20_memory.md R88). -/
def mockReturn (k : Collaborator) (speed : Word) (m : Mock) : Word :=
  match k with
  | .peripheralInit => m.retInit.getD 0#32
  | .setFrequency => m.retFreq.getD (if speed.toNat ≤ 0x7FFFFFFF then speed else 0#32)
  | .setTxThreshold => m.retTxthr.getD 0#32
  | .setRxThreshold => m.retRxthr.getD 0#32

end Sys2Proof.Machine
end

