-- ==== Sys2Proof/Machine/Operands.lean ====
section
/-! DEFINITION. Every operand form: the bytes a push takes and their extension, the payload byte, the two comparisons of
`LEN` (30_encoding.md R106, 40_microops.md R131, R142). -/

namespace Sys2Proof.Machine

/-- `zext_32(b)` (00_scope.md R9, 40_microops.md R142 (e)). -/
def zextByte (b : Byte) : Word := b.setWidth 32

/-- `v[7:0]` (40_microops.md R142 (e)). -/
def lowByte (v : Word) : Byte := v.setWidth 8

/-- The register operands a `PUSH` takes in the step tables (40_microops.md R131). -/
inductive PushOperand where
  /-- `x[ADDR]`. -/
  | addr
  /-- `x[REG]`. -/
  | reg
  /-- `x[VAL]`. -/
  | val
  /-- `x[ADDR] | 0x01`. -/
  | addrRead
  deriving DecidableEq, Repr

/-- The read-direction address byte, `x[ADDR] | 0x01` (40_microops.md R142 (d), 44_regrd.md R182). -/
def readAddress (b : Byte) : Byte := b ||| 0x01#8

/-- The byte of a push operand. `x[ADDR]` is used as it is: bit 0 is neither checked nor cleared (30_encoding.md R106). -/
def pushByte (o : PushOperand) (e : Engine) : Byte :=
  match o with
  | .addr => e.addr
  | .reg => e.reg
  | .val => e.val
  | .addrRead => readAddress e.addr

/-- The byte of the payload buffer space at an index, if HOST has written one. -/
def Memory.read (m : Memory) (i : Nat) : Option Byte :=
  match m with
  | [] => none
  | (j, b) :: rest => if j = i then some b else Memory.read rest i

/-- Stores a byte, keeping the indices strictly rising. -/
def Memory.write (m : Memory) (i : Nat) (b : Byte) : Memory :=
  match m with
  | [] => [(i, b)]
  | (j, x) :: rest =>
    if i < j then (i, b) :: (j, x) :: rest
    else if i = j then (i, b) :: rest
    else (j, x) :: Memory.write rest i b

/-- The bytes of a list at the indices from `i` on. -/
def Memory.ofBytesFrom (i : Nat) : List Byte → Memory
  | [] => []
  | b :: rest => (i, b) :: Memory.ofBytesFrom (i + 1) rest

/-- The payload buffer space that holds byte `i` of `buf` at index `i` and nothing else (30_encoding.md R103). An index that
`buf` does not reach holds no value, whatever an earlier call's buffer held there: a `buf` shorter than `len` is refused
(20_memory.md R62, 43_bufwr.md R174 (b); log 32). Bytes beyond the space's end are never read (R174). -/
def Memory.ofBuffer (cap : Nat) (buf : List Byte) : Memory := Memory.ofBytesFrom 0 (buf.take cap)

/-- `BufRead(i)` (20_memory.md R62): the byte HOST stored at `i`; a byte not written, or not part of the buffer HOST passed
last, is refused (log 32). -/
def bufRead (i : Nat) (s : State) : Host.Outcome Byte Fault Refusal :=
  if i < s.cfg.bufcap then
    match s.payload.read i with
    | some b => .next b
    | none => .refused .unwrittenBufferByte
  else .fault .outsidePayloadBuffer

/-- `x[LEN] > FIFO_DEPTH - 2`, a signed comparison over the integers (40_microops.md R142 (a)). -/
def lengthTooLong (s : State) : Bool := decide (s.eng.len.toInt > (s.cfg.fifoDepth : Int) - 2)

/-- `x[LEN] < 0` (40_microops.md R140). -/
def lengthNegative (s : State) : Bool := decide (s.eng.len.toInt < 0)

/-- `x[IDX] < x[LEN]` over the integers, `IDX` unsigned and `LEN` signed (40_microops.md R142 (b); log 15). -/
def payloadLeft (s : State) : Bool := decide ((s.eng.idx.toNat : Int) < s.eng.len.toInt)

end Sys2Proof.Machine
end

