-- ==== Sys2Proof/WellFormed.lean ====
section
/-! DEFINITION. Well-formed configurations (the constraint column of 00_scope.md R7, and R8) and well-formed
commands. -/

namespace Sys2Proof

/-- Exactly one bit is set. -/
def singleBit (w : Word) : Bool := w != 0#32 && (w &&& (w - 1#32)) == 0#32

/-- How many bits of a word are set. -/
def popCount (w : Word) : Nat := ((List.range 32).filter fun k => w.getLsbD k).length

/-- No two entries of a list are equal. -/
def pairwiseDistinct {α : Type} [DecidableEq α] : List α → Bool
  | [] => true
  | a :: l => !(l.contains a) && pairwiseDistinct l

namespace Config

/-- `FIFO_DEPTH >= 3` (00_scope.md R8). -/
def depthOk (c : Config) : Bool := decide (3 ≤ c.fifoDepth)

/-- `BUFCAP >= FIFO_DEPTH - 2`. -/
def bufcapOk (c : Config) : Bool := decide (c.fifoDepth - 2 ≤ c.bufcap)

/-- The seven offsets are pairwise distinct. -/
def offsetsDistinct (c : Config) : Bool := pairwiseDistinct (Reg.all.map c.offset)

/-- The seven offsets are multiples of 4. -/
def offsetsAligned (c : Config) : Bool := Reg.all.all fun r => c.offset r % 4 == 0

/-- `M_START`, `M_RESTART`, `M_STOP` are pairwise distinct single bits. -/
def mctrlMasksOk (c : Config) : Bool :=
  [c.mStart, c.mRestart, c.mStop].all singleBit && pairwiseDistinct [c.mStart, c.mRestart, c.mStop]

/-- `M_TXFLUSH` and `M_RXFLUSH` are single bits, each of its own register. -/
def flushMasksOk (c : Config) : Bool := singleBit c.mTxflush && singleBit c.mRxflush

/-- `M_RXTHRF`, `M_STOPF` and the seven error masks are pairwise distinct single bits of `INTFL0`: so the two polled
flags are outside `ERRMASK`, and `ERRMASK` has exactly seven bits set. -/
def flagMasksOk (c : Config) : Bool :=
  (c.mRxthrf :: c.mStopf :: c.errMasks).all singleBit &&
    pairwiseDistinct (c.mRxthrf :: c.mStopf :: c.errMasks)

/-- The three status codes are pairwise distinct. -/
def statusesOk (c : Config) : Bool := pairwiseDistinct [c.stOk, c.stBadParam, c.stCommErr]

/-- `GPIO_DS_MASK` has exactly two bits set. -/
def gpioMaskOk (c : Config) : Bool := popCount c.gpioDsMask == 2

/-- A configuration that meets every constraint of 00_scope.md R7 and R8. -/
def wf (c : Config) : Bool :=
  c.depthOk && c.bufcapOk && c.offsetsDistinct && c.offsetsAligned && c.mctrlMasksOk && c.flushMasksOk &&
    c.flagMasksOk && c.statusesOk && c.gpioMaskOk

end Config

/-- Every command is well-formed: each operand has the width its field has (30_encoding.md R102 to R104), and the
spec restricts no operand further. Bit 0 of `addr` (70_reset_and_hazards.md R247) and the range of `len` (R140) are no
conditions of the encoding: the first is the caller's duty, the second is checked while the command runs. -/
def Instr.wf : Instr → Bool
  | .regwr _ _ _ => true
  | .bufwr _ _ _ => true
  | .regrd _ _ => true
  | .init _ => true

end Sys2Proof
end

