-- ==== Sys2Proof/Machine/Ops.lean ====
section
/-! DEFINITION. The named operations over registers, the register space and the collaborators; issue; and completion,
which stands in for taking an exception (60_exceptions.md R204). -/

namespace Sys2Proof.Machine

/-- Goes on with `f` from a next state; a fault or a refusal stands. -/
def andThen {α β : Type} (o : Host.Outcome α Fault Refusal) (f : α → Host.Outcome β Fault Refusal) :
    Host.Outcome β Fault Refusal :=
  match o with
  | .next a => f a
  | .fault r => .fault r
  | .refused r => .refused r

/-! ### Register updates -/

/-- `x[T] <- v`. -/
def State.setT (s : State) (v : Word) : State := { s with eng := { s.eng with t := v } }

/-- `x[RDATA] <- b`. -/
def State.setRdata (s : State) (b : Byte) : State := { s with eng := { s.eng with rdata := b } }

/-- `x[IDX] <- v`. -/
def State.setIdx (s : State) (v : Word) : State := { s with eng := { s.eng with idx := v } }

/-- `upc <- n`. -/
def State.setUpc (s : State) (n : Nat) : State := { s with eng := { s.eng with upc := n } }

/-- `upc <- upc + 1` (10_state.md R33). -/
def State.advance (s : State) : State := s.setUpc (s.eng.upc + 1)

/-- Appends an entry to the access trace (00_scope.md R10, R11). -/
def State.log (s : State) (e : TraceEntry) : State := { s with trace := s.trace ++ [e] }

/-- The configuration state after a collaborator (10_state.md R44). -/
def State.setEnv (s : State) (env : PeriphConfig) : State := { s with env := env }

/-- Completion, the one shared operation of `raise <Status>()` and `complete(ST_OK)` (60_exceptions.md R204):
`x[STATUS] <- st; x[BUSY] <- 0`, and the command ends. Nothing else changes; `UPC`, meaningless from here on
(10_state.md R33), keeps its number (log 9). -/
def State.complete (s : State) (st : Word) : State :=
  { s with eng := { s.eng with status := st, busy := false } }

/-! ### The register space -/

/-- The address of a register, `BASE + OFF_<name>` (20_memory.md R60, R78). -/
def regAddr (c : Config) (r : Reg) : Nat := c.base + c.offset r

/-- The register at an address, if one is there (20_memory.md R78, R80). -/
def regAt (c : Config) (a : Nat) : Option Reg := Reg.all.find? fun r => regAddr c r == a

/-- A read the unconstrained environment answers: PERIPHERAL moves, then the register is read (20_memory.md R72). -/
def freeRead (r : Reg) (s : State) : Word × State :=
  let s1 := envTurn s
  let v := periphReadValue r s1.periph
  (v, { s1 with periph := periphAfterRead r s1.periph }.log (.read r v))

/-- A write to the unconstrained environment: PERIPHERAL moves, then the register is written (20_memory.md R64). -/
def freeWrite (r : Reg) (v : Word) (s : State) : State :=
  let s1 := envTurn s
  { s1 with periph := periphAfterWrite r v s1.periph }.log (.write r v)

/-- One read access of the whole register at address `a`: the value and the state after it; appends `R(REG, value)` to the
trace (00_scope.md R10). The arm for an address that is no register refuses (20_memory.md R80). -/
def memRead (a : Nat) (s : State) : Host.Outcome (Word × State) Fault Refusal :=
  match regAt s.cfg a with
  | none => .refused .outOfMapAccess
  | some r =>
    match s.mock with
    | none => .next (freeRead r s)
    | some m =>
      match mockRead s.cfg r s.periph m with
      | some (v, p, m') => .next (v, { s with periph := p, mock := some m' }.log (.read r v))
      | none => .refused .mockHasNoAnswer

/-- One write access of the whole register at address `a`; appends `W(REG, v)` to the trace (00_scope.md R10). -/
def memWrite (a : Nat) (v : Word) (s : State) : Host.Outcome State Fault Refusal :=
  match regAt s.cfg a with
  | none => .refused .outOfMapAccess
  | some r =>
    match s.mock with
    | none => .next (freeWrite r v s)
    | some m =>
      let x := mockWrite s.cfg r v s.periph m
      .next ({ s with periph := x.1, mock := some x.2 }.log (.write r v))

/-- `x[T] <- MemRead(r, 4)`, then the rest of the micro-step, which sees the value in `x[T]`. -/
def loadT (r : Reg) (s : State) (k : State → State) : Host.Outcome State Fault Refusal :=
  andThen (memRead (regAddr s.cfg r) s) fun x => .next (k (x.2.setT x.1))

/-- `MemWrite(r, 4, v)`, then the rest of the micro-step. -/
def store (r : Reg) (v : Word) (s : State) (k : State → State) : Host.Outcome State Fault Refusal :=
  andThen (memWrite (regAddr s.cfg r) v s) fun s' => .next (k s')

/-! ### The collaborators -/

/-- The trace record of a call: `BASE`, then its arguments (45_init.md R192). -/
def callRecord (k : Collaborator) (s : State) : CallRecord :=
  match k with
  | .peripheralInit => .peripheralInit s.cfg.base s.cfg.modeMaster s.cfg.initOpts
  | .setFrequency => .setFrequency s.cfg.base s.eng.speed
  | .setTxThreshold => .setTxThreshold s.cfg.base 1#32
  | .setRxThreshold => .setRxThreshold s.cfg.base 1#32

/-- Whether a returned value reports failure: a negative one for set-frequency, any but `ST_OK` for the three others
(45_init.md R191, decision D17). -/
def callFails (c : Config) (k : Collaborator) (ret : Word) : Bool :=
  match k with
  | .setFrequency => decide (ret.toInt < 0)
  | .peripheralInit | .setTxThreshold | .setRxThreshold => ret != c.stOk

/-- The configuration field of a call with the value it is left with where the spec does not say (U12). -/
def envLeft (k : Collaborator) (field : Word) (e : PeriphConfig) : PeriphConfig :=
  match k with
  | .peripheralInit => { e with mode := field }
  | .setFrequency => { e with hz := field }
  | .setTxThreshold => { e with txthr := field }
  | .setRxThreshold => { e with rxthr := field }

/-- The effect of a call that succeeds; the frequency is "not specified further" (45_init.md R192). -/
def envOnSuccess (c : Config) (k : Collaborator) (field : Word) (e : PeriphConfig) : PeriphConfig :=
  match k with
  | .peripheralInit => { e with mode := c.modeMaster }
  | .setFrequency => { e with hz := field }
  | .setTxThreshold => { e with txthr := 1#32 }
  | .setRxThreshold => { e with rxthr := 1#32 }

/-- The environment's answer to a call and the state after it was drawn. Under the mock the returned value is the script's
and only the open field value is free (20_memory.md R88). -/
def callReply (k : Collaborator) (s : State) : CallReply × State :=
  match s.mock with
  | none => freeReply s
  | some m =>
    ({ ret := mockReturn k s.eng.speed m, field := Config.freeCallField s.freeCtr },
      { s with freeCtr := s.freeCtr + 1 })

/-- The configuration state a failing call leaves: its own field is open (U12); the mock records nothing for a call that
fails (20_memory.md R88). -/
def envOnFailure (mocked : Bool) (k : Collaborator) (field : Word) (e : PeriphConfig) : PeriphConfig :=
  if mocked then e else envLeft k field e

/-! ### Issue -/

/-- The command registers as issue latches them: word 0's four fields for every command, `LEN` for `BUFWR`, `SPEED` for
`INIT` (30_encoding.md R102 to R104; log 17). -/
def latch (i : Instr) (e : Engine) : Engine :=
  match i with
  | .regwr addr reg val => { e with op := i.opcode, addr := addr, reg := reg, val := val }
  | .bufwr addr reg len => { e with op := i.opcode, addr := addr, reg := reg, val := 0#8, len := len }
  | .regrd addr reg => { e with op := i.opcode, addr := addr, reg := reg, val := 0#8 }
  | .init speed => { e with op := i.opcode, addr := 0#8, reg := 0#8, val := 0#8, speed := speed }

/-- The number of the step `CHK` (10_state.md R33). -/
def chkStep : Nat := 31

/-- The first step of a command's table (10_state.md R33). -/
def firstStep : Instr → Nat
  | .bufwr _ _ _ => chkStep
  | .regwr _ _ _ | .regrd _ _ | .init _ => 0

/-- The issue step, one atomic step (30_encoding.md R109). -/
def State.issue (s : State) (i : Instr) : State :=
  { s with eng := { latch i s.eng with busy := true, upc := firstStep i } }

/-- The command the command registers hold (10_state.md R21, 30_encoding.md R105). -/
def latched (e : Engine) : Option Instr :=
  if e.op = 0x01#8 then some (.regwr e.addr e.reg e.val)
  else if e.op = 0x02#8 then some (.bufwr e.addr e.reg e.len)
  else if e.op = 0x03#8 then some (.regrd e.addr e.reg)
  else if e.op = 0x04#8 then some (.init e.speed)
  else none

end Sys2Proof.Machine
end

