-- ==== Sys2Proof/Machine/MicroOps.lean ====
section
/-! DEFINITION. The micro-operations of 40_microops.md as the rows of the step tables, one micro-step each, and what each
does. -/

namespace Sys2Proof.Machine

/-- One row of a step table: a micro-step of ENGINE (40_microops.md R130). -/
inductive MicroStep where
  /-- The read of `WBK reg` (R138). -/
  | wbkRead (r : Reg)
  /-- The write of `WBK reg` (R138). -/
  | wbkWrite (r : Reg)
  /-- The read of `SETB reg, mask` (R132). -/
  | setbRead (r : Reg)
  /-- The write of `SETB reg, mask` (R132). -/
  | setbWrite (r : Reg) (b : FlagBit)
  /-- `PUSH b` (R131). -/
  | push (o : PushOperand)
  /-- `WR reg, v` (R133). -/
  | wr (r : Reg) (v : Word)
  /-- `W1C reg, mask` (R134). -/
  | w1c (r : Reg) (b : FlagBit)
  /-- `POLL1 reg, mask` (R135). -/
  | poll1 (r : Reg) (b : FlagBit)
  /-- `POLL0 reg, mask` (R136). -/
  | poll0 (r : Reg) (b : FlagBit)
  /-- `POP` (R137). -/
  | pop
  /-- `EVAL` (R139). -/
  | eval
  /-- `CHKLEN` (R140). -/
  | chklen
  /-- The payload step of `BUFWR` (43_bufwr.md R172 step 14). -/
  | payload
  /-- `CALL name(args), fails` (R141). -/
  | call (k : Collaborator)
  /-- `GPIODS mask` (R145). -/
  | gpiods
  /-- The end of `INIT`, `complete(ST_OK)` (45_init.md R192 step 5). -/
  | finish
  deriving DecidableEq, Repr

/-- The read half of a read-modify-write: `x[T] <- MemRead(reg, 4)` (40_microops.md R132, R138). -/
def readHalf (r : Reg) (s : State) : Host.Outcome State Fault Refusal := loadT r s State.advance

/-- The write half of `WBK`: `MemWrite(reg, 4, x[T])` (40_microops.md R138). -/
def writeBack (r : Reg) (s : State) : Host.Outcome State Fault Refusal := store r s.eng.t s State.advance

/-- The write half of `SETB`: `MemWrite(reg, 4, x[T] | mask)` (40_microops.md R132). -/
def setBit (r : Reg) (b : FlagBit) (s : State) : Host.Outcome State Fault Refusal :=
  store r (orMask s.eng.t (s.cfg.mask b)) s State.advance

/-- `PUSH b`: `MemWrite(FIFO, 4, zext_32(b))` (40_microops.md R131). -/
def push (b : Byte) (s : State) (k : State → State) : Host.Outcome State Fault Refusal :=
  store .fifo (zextByte b) s k

/-- `WR reg, v`: `MemWrite(reg, 4, v)` (40_microops.md R133). -/
def writeReg (r : Reg) (v : Word) (s : State) : Host.Outcome State Fault Refusal := store r v s State.advance

/-- `W1C reg, mask`: `MemWrite(reg, 4, mask)`, no read (40_microops.md R134). -/
def clearFlag (r : Reg) (b : FlagBit) (s : State) : Host.Outcome State Fault Refusal :=
  store r (s.cfg.mask b) s State.advance

/-- `POLL1 reg, mask`: reads, and stays while the bit is 0; no bound (40_microops.md R135). -/
def pollSet (r : Reg) (b : FlagBit) (s : State) : Host.Outcome State Fault Refusal :=
  loadT r s fun s' => if anySet s'.eng.t (s.cfg.mask b) then s'.advance else s'

/-- `POLL0 reg, mask`: reads, and stays while the bit is 1; no bound (40_microops.md R136). -/
def pollClear (r : Reg) (b : FlagBit) (s : State) : Host.Outcome State Fault Refusal :=
  loadT r s fun s' => if anySet s'.eng.t (s.cfg.mask b) then s' else s'.advance

/-- `POP`: `x[T] <- MemRead(FIFO, 4); x[RDATA] <- x[T][7:0]` (40_microops.md R137). -/
def pop (s : State) : Host.Outcome State Fault Refusal :=
  loadT .fifo s fun s' => (s'.setRdata (lowByte s'.eng.t)).advance

/-- `EVAL`: one read of `INTFL0`; `ST_COMM_ERR` if any error bit is 1 in it, else `ST_OK` (40_microops.md R139). -/
def evalErrors (s : State) : Host.Outcome State Fault Refusal :=
  loadT .intfl0 s fun s' => s'.complete (if errorSeen s.cfg s'.eng.t then s.cfg.stCommErr else s.cfg.stOk)

/-- `CHKLEN`, without any access (40_microops.md R140). -/
def chklen (s : State) : Host.Outcome State Fault Refusal :=
  if lengthTooLong s then .next (s.complete s.cfg.stBadParam)
  else if lengthNegative s then .refused .negativeLength
  else .next ((s.setIdx 0#32).setUpc 0)

/-- The payload step (43_bufwr.md R172 step 14): while `x[IDX] < x[LEN]` push `BufRead(x[IDX])`, add 1 to `x[IDX]` and
stay; then go on, without an access. -/
def payloadStep (s : State) : Host.Outcome State Fault Refusal :=
  if payloadLeft s then
    andThen (bufRead s.eng.idx.toNat s) fun b => push b s fun s' => s'.setIdx (s'.eng.idx + 1#32)
  else .next s.advance

/-- `CALL name(args), fails` (40_microops.md R141): a failing call completes `INIT` with the returned value, nothing is
undone and no later step runs (45_init.md R193). DESIGN CHOICE: a collaborator changes its own configuration field and
leaves the register block as it is (log 33). -/
def callStep (k : Collaborator) (s : State) : Host.Outcome State Fault Refusal :=
  let a := callReply k s
  let s1 := a.2.log (.call (callRecord k s) (some a.1.ret))
  if callFails s.cfg k a.1.ret then
    .next ((s1.setEnv (envOnFailure s.mock.isSome k a.1.field s.env)).complete a.1.ret)
  else .next (s1.setEnv (envOnSuccess s.cfg k a.1.field s.env)).advance

/-- `GPIODS mask`: `env.gpio_ds <- env.gpio_ds | mask` (40_microops.md R145, 45_init.md R194). -/
def gpioStep (s : State) : Host.Outcome State Fault Refusal :=
  .next ((s.log (.call (.gpioDriveStrength s.cfg.gpioDsMask) none)).setEnv
    { s.env with gpioDs := orMask s.env.gpioDs s.cfg.gpioDsMask }).advance

/-- What one micro-step does. -/
def microStep (m : MicroStep) (s : State) : Host.Outcome State Fault Refusal :=
  match m with
  | .wbkRead r => readHalf r s
  | .wbkWrite r => writeBack r s
  | .setbRead r => readHalf r s
  | .setbWrite r b => setBit r b s
  | .push o => push (pushByte o s.eng) s State.advance
  | .wr r v => writeReg r v s
  | .w1c r b => clearFlag r b s
  | .poll1 r b => pollSet r b s
  | .poll0 r b => pollClear r b s
  | .pop => pop s
  | .eval => evalErrors s
  | .chklen => chklen s
  | .payload => payloadStep s
  | .call k => callStep k s
  | .gpiods => gpioStep s
  | .finish => .next (s.complete s.cfg.stOk)

/-- Runs the row that `UPC` names. -/
def runRow (row : Nat → Option MicroStep) (s : State) : Host.Outcome State Fault Refusal :=
  match row s.eng.upc with
  | some m => microStep m s
  | none => .fault .stepOutsideTable

/-- What a command does in a state, shared by the four commands: on an idle engine it is issued (30_encoding.md R109); when
it is the running command, its next micro-step runs; when another command runs, it is refused (R109). A configuration
outside the constraints of 00_scope.md R7, R8 is refused. -/
def runCommand (i : Instr) (row : Nat → Option MicroStep) (s : State) : Host.Outcome State Fault Refusal :=
  if s.cfg.wf then
    if s.eng.busy then
      if latched s.eng = some i then runRow row s else .refused .issueWhileBusy
    else .next (s.issue i)
  else .refused .badConfiguration

end Sys2Proof.Machine
end

