-- ==== Sys2Proof/Machine/Flush.lean ====
section
/-! DEFINITION. FLUSH, the FIFO flush sequencer, and the head and tail that the transaction tables share. -/

namespace Sys2Proof.Machine

/-- Steps 0 to 9 of every transaction (41_flush.md R151). -/
def flushTable : List MicroStep :=
  [ .wbkRead .intfl0, .wbkWrite .intfl0,
    .wbkRead .intfl1, .wbkWrite .intfl1,
    .setbRead .txctrl, .setbWrite .txctrl .txflush, .poll0 .txctrl .txflush,
    .setbRead .rxctrl, .setbWrite .rxctrl .rxflush, .poll0 .rxctrl .rxflush ]

/-- Steps 10 to 13 of every transaction: the address byte, START, the register address (42_regwr.md R161). -/
def addressTable : List MicroStep :=
  [ .push .addr, .setbRead .mctrl, .setbWrite .mctrl .start, .push .reg ]

/-- The last five steps of every transaction: STOP, the wait for STOPF, its clearing, the evaluation (42_regwr.md R161
steps 15 to 19). -/
def stopTable : List MicroStep :=
  [ .setbRead .mctrl, .setbWrite .mctrl .stop, .poll1 .intfl0 .stopf, .w1c .intfl0 .stopf, .eval ]

end Sys2Proof.Machine
end

