-- ==== Sys2Proof/Machine/Bufwr.lean ====
section
/-! DEFINITION. BUFWR, the buffered register write (43_bufwr.md). -/

namespace Sys2Proof.Machine

/-- The step table of BUFWR from step 0 (43_bufwr.md R172). -/
def bufwrTable : List MicroStep := flushTable ++ addressTable ++ [.payload] ++ stopTable

/-- The row of a step number; `CHK` is step 31 (43_bufwr.md R172). -/
def bufwrRow (n : Nat) : Option MicroStep := if n = chkStep then some .chklen else bufwrTable[n]?

/-- `BUFWR addr, reg, len` (43_bufwr.md R170): its issue, or its next micro-step. -/
def execBufwr (addr reg : Byte) (len : Word) (s : State) : Host.Outcome State Fault Refusal :=
  runCommand (.bufwr addr reg len) bufwrRow s

end Sys2Proof.Machine
end

