-- ==== Sys2Proof/Machine/Init.lean ====
section
/-! DEFINITION. INIT, the initialization sequencing (45_init.md). -/

namespace Sys2Proof.Machine

/-- The step table of INIT (45_init.md R192). -/
def initTable : List MicroStep :=
  [ .call .peripheralInit, .call .setFrequency, .call .setTxThreshold, .call .setRxThreshold, .gpiods, .finish ]

/-- The row of a step number. -/
def initRow (n : Nat) : Option MicroStep := initTable[n]?

/-- `INIT speed` (45_init.md R190): its issue, or its next micro-step. -/
def execInit (speed : Word) (s : State) : Host.Outcome State Fault Refusal :=
  runCommand (.init speed) initRow s

end Sys2Proof.Machine
end

