-- ==== Sys2Proof/Machine/Regrd.lean ====
section
/-! DEFINITION. REGRD, the single-register read (44_regrd.md). -/

namespace Sys2Proof.Machine

/-- Steps 14 to 21 of REGRD: arm RX for one byte, RESTART and the wait for it, the read address, the wait for the byte,
the byte, the clearing of RXTHRF (44_regrd.md R181). -/
def readTable : List MicroStep :=
  [ .wr .rxcnt 1#32, .setbRead .mctrl, .setbWrite .mctrl .restart, .poll0 .mctrl .restart,
    .push .addrRead, .poll1 .intfl0 .rxthrf, .pop, .w1c .intfl0 .rxthrf ]

/-- The step table of REGRD (44_regrd.md R181). -/
def regrdTable : List MicroStep := flushTable ++ addressTable ++ readTable ++ stopTable

/-- The row of a step number. -/
def regrdRow (n : Nat) : Option MicroStep := regrdTable[n]?

/-- `REGRD addr, reg` (44_regrd.md R180): its issue, or its next micro-step. -/
def execRegrd (addr reg : Byte) (s : State) : Host.Outcome State Fault Refusal :=
  runCommand (.regrd addr reg) regrdRow s

end Sys2Proof.Machine
end

