-- ==== Sys2Proof/Machine/Regwr.lean ====
section
/-! DEFINITION. REGWR, the single-register write (42_regwr.md). -/

namespace Sys2Proof.Machine

/-- The step table of REGWR (42_regwr.md R161). -/
def regwrTable : List MicroStep := flushTable ++ addressTable ++ [.push .val] ++ stopTable

/-- The row of a step number. -/
def regwrRow (n : Nat) : Option MicroStep := regwrTable[n]?

/-- `REGWR addr, reg, val` (42_regwr.md R160): its issue, or its next micro-step. -/
def execRegwr (addr reg val : Byte) (s : State) : Host.Outcome State Fault Refusal :=
  runCommand (.regwr addr reg val) regwrRow s

end Sys2Proof.Machine
end

