-- ==== Sys2Proof/Machine/Dispatch.lean ====
section
/-! DEFINITION. The dispatch of a command to its meaning. -/

namespace Sys2Proof.Machine

/-- What a command does in a state: on an idle engine its issue, on an engine that runs it its next micro-step. -/
def exec (i : Instr) (s : State) : Host.Outcome State Fault Refusal :=
  match i with
  | .regwr addr reg val => Sys2Proof.Machine.execRegwr addr reg val s
  | .bufwr addr reg len => Sys2Proof.Machine.execBufwr addr reg len s
  | .regrd addr reg => Sys2Proof.Machine.execRegrd addr reg s
  | .init speed => Sys2Proof.Machine.execInit speed s

end Sys2Proof.Machine
end

