-- ==== Sys2Proof/Machine/HostPort.lean ====
section
/-! DEFINITION. What arrives from outside, HOST's program, and which command ENGINE goes on with: the fetch of this
machine, which has no instruction memory (10_state.md R46). -/

namespace Sys2Proof.Machine

/-- HOST presents a descriptor (30_encoding.md R109): refused while `BUSY` is 1, legal or not; decoded and issued
otherwise. Bytes after the command's own are dropped (log 11). -/
def present (bytes : List Byte) (s : State) : Host.Outcome State Fault Refusal :=
  if s.eng.busy then .refused .issueWhileBusy
  else
    match decode bytes with
    | .ok (i, _) => exec i s
    | .error e => .refused (.illegalDescriptor e)

/-- An action that arrives (00_scope.md R6; 30_encoding.md R103, R109; 20_memory.md R62, R75, R76; 70_reset_and_hazards.md R245). -/
def hostAct (a : HostAction) (s : State) : Host.Outcome State Fault Refusal :=
  match a with
  | .present bytes => present bytes s
  | .storeByte i b =>
    if s.eng.busy then .refused .exclusiveAccessViolated
    else if i < s.cfg.bufcap then .next { s with payload := s.payload.write i b }
    else .fault .outsidePayloadBuffer
  | .passBuffer buf =>
    if s.eng.busy then .refused .exclusiveAccessViolated
    else .next { s with payload := Memory.ofBuffer s.cfg.bufcap buf }
  | .foreignAccess => if s.eng.busy then .refused .exclusiveAccessViolated else .next s

/-- ENGINE goes on with the command its command registers hold. -/
def resume (s : State) : Host.Outcome State Fault Refusal :=
  match latched s.eng with
  | some i => exec i s
  | none => .fault .noRunningCommand

/-- HOST, not blocked, makes its next action arrive; with nothing to do the machine stays idle (log 10). -/
def hostTurn (s : State) : State :=
  match s.host with
  | a :: rest => { s with input := some a, host := rest }
  | [] => s

/-- One step of whichever agent's turn it is. -/
def turn (s : State) : Host.Outcome State Fault Refusal :=
  match s.input with
  | some a => hostAct a { s with input := none }
  | none => if s.eng.busy then resume s else .next (hostTurn s)

end Sys2Proof.Machine
end

