-- ==== Sys2Proof/Machine/Step.lean ====
section
/-! DEFINITION. One step of the machine, and how a table word is placed where the next step fetches it. -/

namespace Sys2Proof.Machine

/-- One step: the arrival of an input, a micro-step of ENGINE, or HOST's next action (log 1). -/
def step (s : State) : Host.Outcome State Fault Refusal := turn s

/-- `s` with a descriptor presented at the command port, the engine free to take it: the next step issues exactly that
command (30_encoding.md R109; log 18). -/
def State.withFetchWord (s : State) (nbits w : Nat) : State :=
  { s with input := some (.present (tableBytes nbits w)), eng := { s.eng with busy := false } }

end Sys2Proof.Machine
end

