-- ==== Sys2Proof/Safety.lean ====
section
/-! DEFINITION. The terms in which claims are stated: what HOST may read, the invariant of the engine, lawful moves of
PERIPHERAL, and the environment's answers along one whole transaction. -/

namespace Sys2Proof.Machine

/-! ### What HOST reads (10_state.md R20, 30_encoding.md R110, 70_reset_and_hazards.md R249) -/

/-- `x[STATUS]` as HOST may use it: only while `BUSY` is 0 and after a command has been issued (10_state.md R27). -/
def hostStatus (s : State) : Option Word :=
  if !s.eng.busy && (latched s.eng).isSome then some s.eng.status else none

/-- `x[RDATA]` as HOST may use it: only after a `REGRD` that completed with `ST_OK` (70_reset_and_hazards.md R249). -/
def hostRdata (s : State) : Option Byte :=
  if !s.eng.busy && s.eng.op == 0x03#8 && s.eng.status == s.cfg.stOk then some s.eng.rdata else none

/-- HOST's duties for a command (70_reset_and_hazards.md R247, R250): bit 0 of the address byte is 0, and the payload
bytes `0 .. len - 1` of an admitted length are stored. The engine enforces neither. -/
def callerDuties (i : Instr) (s : State) : Bool :=
  match i with
  | .regwr addr _ _ => !addr.getLsbD 0
  | .bufwr addr _ len =>
    !addr.getLsbD 0 &&
      (decide (len.toInt > (s.cfg.fifoDepth : Int) - 2) ||
        (List.range len.toInt.toNat).all fun k => (s.payload.read k).isSome)
  | .regrd addr _ => !addr.getLsbD 0
  | .init _ => true

/-! ### Where the engine is -/

/-- The engine runs command `i` under a well-formed configuration and its next micro-step is step `n` of the command's
table. -/
abbrev Running (i : Instr) (n : Nat) (s : State) : Prop :=
  s.cfg.wf = true ∧ s.eng.busy = true ∧ latched s.eng = some i ∧ s.eng.upc = n

/-- The engine is idle under a well-formed configuration. -/
abbrev Idle (s : State) : Prop := s.cfg.wf = true ∧ s.eng.busy = false

/-- `UPC` names a step of the running command's table (10_state.md R32), and while `BUFWR` runs past its length check
`0 <= LEN <= FIFO_DEPTH - 2` and `IDX` counts the payload pushed so far (10_state.md R29, 40_microops.md R142 (b)). -/
abbrev InTable (s : State) : Prop :=
  match latched s.eng with
  | some (.regwr _ _ _) => s.eng.upc ≤ 19
  | some (.bufwr _ _ len) =>
    s.eng.upc = chkStep ∨
      (s.eng.upc ≤ 19 ∧ 0 ≤ len.toInt ∧ len.toInt ≤ (s.cfg.fifoDepth : Int) - 2 ∧
        (s.eng.idx.toNat : Int) ≤ len.toInt ∧
        (s.eng.upc < 14 → s.eng.idx = 0#32) ∧ (14 < s.eng.upc → s.eng.idx = len))
  | some (.regrd _ _) => s.eng.upc ≤ 26
  | some (.init _) => s.eng.upc ≤ 5
  | none => False

/-- The payload buffer space is in its canonical form and lists indices below `BUFCAP` only (20_memory.md R62). -/
abbrev PayloadOk (s : State) : Prop := s.payload.wf = true ∧ ∀ x ∈ s.payload, x.1 < s.cfg.bufcap

/-- The invariant every step keeps. -/
abbrev Inv (s : State) : Prop := s.cfg.wf = true ∧ PayloadOk s ∧ (s.eng.busy = true → InTable s)

/-! ### Lawful moves of PERIPHERAL -/

/-- Every flag set in the first register value is set in the second: "a set flag stays set until written with 1"
(20_memory.md R71). A premise about the environment, never a fact of the model. -/
abbrev FlagsStay (before after : Word) : Prop := before &&& ~~~after = 0#32

/-! ### The environment's answers along a transaction, one state of PERIPHERAL for each access -/

/-- PERIPHERAL's states at the accesses of FLUSH (41_flush.md R151); the two lists are the iterations of the busy-waits
that do not end them. -/
structure FlushTurns where
  read0 : Periph
  write0 : Periph
  read1 : Periph
  write1 : Periph
  txRead : Periph
  txWrite : Periph
  txWait : List Periph
  txDone : Periph
  rxRead : Periph
  rxWrite : Periph
  rxWait : List Periph
  rxDone : Periph
  deriving DecidableEq, Repr

/-- The answers in the order of the accesses. -/
def FlushTurns.turns (f : FlushTurns) : List Periph :=
  [f.read0, f.write0, f.read1, f.write1, f.txRead, f.txWrite] ++ f.txWait ++ [f.txDone, f.rxRead, f.rxWrite] ++
    f.rxWait ++ [f.rxDone]

/-- The two busy-waits end where the lists say. -/
abbrev FlushTurns.Ends (f : FlushTurns) (c : Config) : Prop :=
  (∀ p ∈ f.txWait, anySet p.txctrl c.mTxflush = true) ∧ anySet f.txDone.txctrl c.mTxflush = false ∧
    (∀ p ∈ f.rxWait, anySet p.rxctrl c.mRxflush = true) ∧ anySet f.rxDone.rxctrl c.mRxflush = false

/-- The trace of FLUSH (41_flush.md R151). -/
def FlushTurns.trace (f : FlushTurns) (c : Config) : List TraceEntry :=
  [.read .intfl0 f.read0.intfl0, .write .intfl0 f.read0.intfl0,
    .read .intfl1 f.read1.intfl1, .write .intfl1 f.read1.intfl1,
    .read .txctrl f.txRead.txctrl, .write .txctrl (f.txRead.txctrl ||| c.mTxflush)] ++
    f.txWait.map (fun p => .read .txctrl p.txctrl) ++
    [.read .txctrl f.txDone.txctrl,
      .read .rxctrl f.rxRead.rxctrl, .write .rxctrl (f.rxRead.rxctrl ||| c.mRxflush)] ++
    f.rxWait.map (fun p => .read .rxctrl p.rxctrl) ++ [.read .rxctrl f.rxDone.rxctrl]

/-- PERIPHERAL's states at steps 10 to 13 of a transaction (42_regwr.md R161). -/
structure AddressTurns where
  addrPush : Periph
  startRead : Periph
  startWrite : Periph
  regPush : Periph
  deriving DecidableEq, Repr

def AddressTurns.turns (a : AddressTurns) : List Periph := [a.addrPush, a.startRead, a.startWrite, a.regPush]

/-- The trace of steps 10 to 13: the address byte, START, the register address (42_regwr.md R161). -/
def AddressTurns.trace (a : AddressTurns) (c : Config) (addr reg : Byte) : List TraceEntry :=
  [.write .fifo (addr.setWidth 32), .read .mctrl a.startRead.mctrl, .write .mctrl (a.startRead.mctrl ||| c.mStart),
    .write .fifo (reg.setWidth 32)]

/-- PERIPHERAL's states at steps 14 to 21 of `REGRD` (44_regrd.md R181). -/
structure ReadTurns where
  armRx : Periph
  restartRead : Periph
  restartWrite : Periph
  restartWait : List Periph
  restartDone : Periph
  readAddrPush : Periph
  byteWait : List Periph
  byteDone : Periph
  pop : Periph
  clear : Periph
  deriving DecidableEq, Repr

def ReadTurns.turns (r : ReadTurns) : List Periph :=
  [r.armRx, r.restartRead, r.restartWrite] ++ r.restartWait ++ [r.restartDone, r.readAddrPush] ++ r.byteWait ++
    [r.byteDone, r.pop, r.clear]

abbrev ReadTurns.Ends (r : ReadTurns) (c : Config) : Prop :=
  (∀ p ∈ r.restartWait, anySet p.mctrl c.mRestart = true) ∧ anySet r.restartDone.mctrl c.mRestart = false ∧
    (∀ p ∈ r.byteWait, anySet p.intfl0 c.mRxthrf = false) ∧ anySet r.byteDone.intfl0 c.mRxthrf = true

/-- The trace of steps 14 to 21 of `REGRD` (44_regrd.md R181). -/
def ReadTurns.trace (r : ReadTurns) (c : Config) (addr : Byte) : List TraceEntry :=
  [.write .rxcnt 1#32, .read .mctrl r.restartRead.mctrl, .write .mctrl (r.restartRead.mctrl ||| c.mRestart)] ++
    r.restartWait.map (fun p => .read .mctrl p.mctrl) ++
    [.read .mctrl r.restartDone.mctrl, .write .fifo ((addr ||| 0x01#8).setWidth 32)] ++
    r.byteWait.map (fun p => .read .intfl0 p.intfl0) ++
    [.read .intfl0 r.byteDone.intfl0, .read .fifo (fifoReadValue r.pop), .write .intfl0 c.mRxthrf]

/-- PERIPHERAL's states at the last five steps of a transaction (42_regwr.md R161 steps 15 to 19). -/
structure StopTurns where
  stopRead : Periph
  stopWrite : Periph
  stopWait : List Periph
  stopDone : Periph
  clear : Periph
  eval : Periph
  deriving DecidableEq, Repr

def StopTurns.turns (z : StopTurns) : List Periph :=
  [z.stopRead, z.stopWrite] ++ z.stopWait ++ [z.stopDone, z.clear, z.eval]

abbrev StopTurns.Ends (z : StopTurns) (c : Config) : Prop :=
  (∀ p ∈ z.stopWait, anySet p.intfl0 c.mStopf = false) ∧ anySet z.stopDone.intfl0 c.mStopf = true

/-- The trace of the last five steps: STOP, the wait for STOPF, its clearing, the evaluation (42_regwr.md R161). -/
def StopTurns.trace (z : StopTurns) (c : Config) : List TraceEntry :=
  [.read .mctrl z.stopRead.mctrl, .write .mctrl (z.stopRead.mctrl ||| c.mStop)] ++
    z.stopWait.map (fun p => .read .intfl0 p.intfl0) ++
    [.read .intfl0 z.stopDone.intfl0, .write .intfl0 c.mStopf, .read .intfl0 z.eval.intfl0]

/-- The status a transaction completes with, from the one evaluating read (40_microops.md R139). -/
def transactionStatus (c : Config) (v : Word) : Word := if v &&& errMask c = 0#32 then c.stOk else c.stCommErr

/-- `n` steps, stopping at the first fault or refusal. -/
def stepN : Nat → State → Host.Outcome State Fault Refusal
  | 0, s => .next s
  | n + 1, s => andThen (step s) (stepN n)

/-- Issues command `i` and takes `n` more steps. -/
def issueAndRun (i : Instr) (n : Nat) (s : State) : Host.Outcome State Fault Refusal :=
  andThen (exec i s) (stepN n)

/-! ### Two runs that differ in what an earlier command left behind (10_state.md R50) -/

/-- Whether step `n` of command `i` uses the value an earlier micro-step left in `x[T]`. -/
def usesT (i : Instr) (n : Nat) : Bool :=
  match i with
  | .regwr _ _ _ | .bufwr _ _ _ => [1, 3, 5, 8, 12, 16].contains n
  | .regrd _ _ => [1, 3, 5, 8, 12, 16, 23].contains n
  | .init _ => false

/-- The two states agree in everything but what no command carries over: the engine registers, of which only those the
running command still uses must agree. -/
abbrev Agree (s s' : State) : Prop :=
  s.cfg = s'.cfg ∧ s.payload = s'.payload ∧ s.periph = s'.periph ∧ s.env = s'.env ∧ s.mock = s'.mock ∧
    s.turns = s'.turns ∧ s.calls = s'.calls ∧ s.freeCtr = s'.freeCtr ∧ s.input = s'.input ∧ s.host = s'.host ∧
    s.trace = s'.trace ∧ s.eng.busy = s'.eng.busy ∧
    (s.eng.busy = true →
      latched s.eng = latched s'.eng ∧ s.eng.upc = s'.eng.upc ∧
        ∀ i, latched s.eng = some i →
          (usesT i s.eng.upc = true → s.eng.t = s'.eng.t) ∧
            (i.opcode = 0x02#8 → s.eng.upc ≠ chkStep → s.eng.idx = s'.eng.idx))

end Sys2Proof.Machine
end

