-- ==== Sys2Proof/Certificates/Slice0/Obligations.lean ====
section
/-! DEFINITION. The statements for the provers. Each docstring names the rules it formalises; where a clause rests on a
choice of the model's, it names the log entry. -/

open Sys2Proof Sys2Proof.Machine

/-! ### Reset, descriptors, issue -/

/-- After reset the engine is idle (10_state.md R48), no payload byte is written, nothing has been accessed, and no
command is pending. The model's choice: its inputs and its trace are empty (log 5, 12, 16, 20), and the environment is
the unconstrained one, not the mock (log 6). -/
def Obligations.ResetLeavesTheEngineIdle : Prop :=
  State.reset.eng.busy = false ∧ (∀ i, State.reset.payload.read i = none) ∧ State.reset.trace = [] ∧
    State.reset.mock = none ∧ State.reset.input = none ∧ State.reset.host = [] ∧ State.reset.turns = [] ∧
    State.reset.calls = []

/-- Descriptors written out from the encodings of 30_encoding.md (95_test_vectors.md V1 to V4 and V10 to V16). -/
def Obligations.DescriptorWordsOfTheSpec : Prop :=
  decode [0x01#8, 0x50#8, 0x10#8, 0xAB#8] = .ok (.regwr 0x50#8 0x10#8 0xAB#8, []) ∧
    decode [0x02#8, 0x50#8, 0x10#8, 0x00#8, 0x03#8, 0x00#8, 0x00#8, 0x00#8] =
      .ok (.bufwr 0x50#8 0x10#8 3#32, []) ∧
    decode [0x03#8, 0x50#8, 0x20#8, 0x00#8] = .ok (.regrd 0x50#8 0x20#8, []) ∧
    decode [0x04#8, 0x00#8, 0x00#8, 0x00#8, 0x80#8, 0x1A#8, 0x06#8, 0x00#8] = .ok (.init 400000#32, []) ∧
    (∀ w ∈ [0x00000000#32, 0x00000005#32, 0xAB1050FF#32],
      ∀ w1, decode (bytesOfWord w ++ bytesOfWord w1) = .error .reservedOpcode) ∧
    (∀ w ∈ [0x01105002#32, 0xFF205003#32, 0x00000104#32, 0x00100004#32],
      ∀ w1, decode (bytesOfWord w ++ bytesOfWord w1) = .error .mustBeZero)

/-- The opcode map (30_encoding.md R105): word 0 is the command of a row exactly when `w & mask = match`; the rows are
disjoint; the fields are those of R102, R103 and R104; any other word 0 encodes no command (R107). -/
def Obligations.OpcodeMapDecidesTheCommand : Prop :=
  (∀ w : Word, ∀ r ∈ opcodeTable, ∀ r' ∈ opcodeTable,
      w &&& r.mask = r.pattern → w &&& r'.mask = r'.pattern → r = r') ∧
    ∀ (w w1 : Word) (rest : List Byte),
      (w &&& 0x000000FF#32 = 0x00000001#32 →
        decode (bytesOfWord w ++ rest) =
          .ok (.regwr (w.extractLsb' 8 8) (w.extractLsb' 16 8) (w.extractLsb' 24 8), rest)) ∧
      (w &&& 0xFF0000FF#32 = 0x00000002#32 →
        decode (bytesOfWord w ++ bytesOfWord w1 ++ rest) =
          .ok (.bufwr (w.extractLsb' 8 8) (w.extractLsb' 16 8) w1, rest)) ∧
      (w &&& 0xFF0000FF#32 = 0x00000003#32 →
        decode (bytesOfWord w ++ rest) = .ok (.regrd (w.extractLsb' 8 8) (w.extractLsb' 16 8), rest)) ∧
      (w = 0x00000004#32 → decode (bytesOfWord w ++ bytesOfWord w1 ++ rest) = .ok (.init w1, rest)) ∧
      (w &&& 0x000000FF#32 ≠ 0x00000001#32 → w &&& 0xFF0000FF#32 ≠ 0x00000002#32 →
        w &&& 0xFF0000FF#32 ≠ 0x00000003#32 → w ≠ 0x00000004#32 →
        ∃ e, decode (bytesOfWord w ++ rest) = .error e)

/-- A descriptor that matches no row of the opcode map, presented to an idle engine, is refused as illegal: nothing is
latched, accessed or written (30_encoding.md R107). -/
def Obligations.IllegalDescriptorIsRefused : Prop :=
  ∀ (s : State) (w : Word) (rest : List Byte),
    s.eng.busy = false → s.input = some (.present (bytesOfWord w ++ rest)) →
    (∀ r ∈ opcodeTable, w &&& r.mask ≠ r.pattern) →
    ∃ e, step s = .refused (.illegalDescriptor e)

/-- Decoding the bytes of a command, whatever follows them, gives the command back, with every operand at every value
(30_encoding.md R101 to R108). -/
def Obligations.DecodeOfEncode : Prop :=
  ∀ (i : Instr) (rest : List Byte), i.wf = true → decode (encode i ++ rest) = .ok (i, rest)

/-- The bytes a command was decoded from are the command's own encoding: no bit of a descriptor is ignored
(30_encoding.md R101 to R108). -/
def Obligations.EncodeOfDecode : Prop :=
  ∀ (bytes rest : List Byte) (i : Instr), decode bytes = .ok (i, rest) → encode i ++ rest = bytes ∧ i.wf = true

/-- Issue (30_encoding.md R109): a command presented to an idle engine is latched into the command registers field by
field, `BUSY` is set and `UPC` is the first step of the command's table, in one step; nothing else changes. Presented
while `BUSY` is 1 any descriptor, legal or not, is refused. The model's choice: bytes after the descriptor are dropped
(log 11), the descriptor leaves the model's port (log 12), and the fields a command does not use are copied as zero (log
17). -/
def Obligations.IssueLatchesTheCommand : Prop :=
  (∀ (s : State) (addr reg val : Byte), Idle s →
      exec (.regwr addr reg val) s = .next { s with eng := { s.eng with
        op := 0x01#8, addr := addr, reg := reg, val := val, busy := true, upc := 0 } }) ∧
    (∀ (s : State) (addr reg : Byte) (len : Word), Idle s →
      exec (.bufwr addr reg len) s = .next { s with eng := { s.eng with
        op := 0x02#8, addr := addr, reg := reg, val := 0#8, len := len, busy := true, upc := 31 } }) ∧
    (∀ (s : State) (addr reg : Byte), Idle s →
      exec (.regrd addr reg) s = .next { s with eng := { s.eng with
        op := 0x03#8, addr := addr, reg := reg, val := 0#8, busy := true, upc := 0 } }) ∧
    (∀ (s : State) (speed : Word), Idle s →
      exec (.init speed) s = .next { s with eng := { s.eng with
        op := 0x04#8, addr := 0#8, reg := 0#8, val := 0#8, speed := speed, busy := true, upc := 0 } }) ∧
    (∀ (s : State) (i : Instr) (rest : List Byte), s.eng.busy = false → i.wf = true →
      s.input = some (.present (encode i ++ rest)) → step s = exec i { s with input := none }) ∧
    (∀ (s : State) (bytes : List Byte), s.eng.busy = true → s.input = some (.present bytes) →
      step s = .refused .issueWhileBusy)

/-- A step runs the decoded command: the one whose descriptor has arrived, and, while `BUSY` is 1, the one the command
registers hold. The arrival leaves the command port (log 2, 12). -/
def Obligations.StepRunsTheDecodedCommand : Prop :=
  (∀ (s : State) (bytes rest : List Byte) (i : Instr), s.eng.busy = false → s.input = some (.present bytes) →
      decode bytes = .ok (i, rest) → i.wf = true → step s = exec i { s with input := none }) ∧
    (∀ (s : State) (i : Instr), s.eng.busy = true → s.input = none → latched s.eng = some i → step s = exec i s)

/-- A table word placed with `withFetchWord` is what the next step issues; the engine is idle for it (log 18). -/
def Obligations.FetchWordRunsNext : Prop :=
  ∀ (s : State) (nbits w : Nat) (i : Instr), decodeTableWord nbits w = some i →
    step (s.withFetchWord nbits w) = exec i { s with input := none, eng := { s.eng with busy := false } }

/-- The model's choice (log 10, 12): while the engine is idle and nothing arrives, HOST makes its next action arrive, and
a HOST with nothing to do leaves the machine as it is. -/
def Obligations.IdleMachineWaitsForHost : Prop :=
  ∀ s : State, s.eng.busy = false → s.input = none →
    (∀ a rest, s.host = a :: rest → step s = .next { s with input := some a, host := rest }) ∧
      (s.host = [] → step s = .next s)

/-- HOST's buffer and stores, and the exclusive access premise (20_memory.md R62, R75, R76; 70_reset_and_hazards.md
R245): while `BUSY` is 0 a store of an index below `BUFCAP` changes that byte of the payload buffer space alone, and a
buffer that HOST passes is all the space then holds (30_encoding.md R103; the model's reading, log 32); while `BUSY` is
1 both are refused, as is any other agent's access of the register block. The model's own: a store outside the buffer
faults (log 13), an access by another agent while `BUSY` is 0 leaves the engine as it is (log 14). -/
def Obligations.HostStoresPayloadWhileIdle : Prop :=
  ∀ (s : State) (i : Nat) (b : Byte),
    (s.eng.busy = false → s.input = some (.storeByte i b) → i < s.cfg.bufcap →
      step s = .next { s with input := none, payload := s.payload.write i b } ∧
        (s.payload.write i b).read i = some b ∧
        ∀ j, j ≠ i → (s.payload.write i b).read j = s.payload.read j) ∧
      (s.eng.busy = false → s.input = some (.storeByte i b) → s.cfg.bufcap ≤ i →
        step s = .fault .outsidePayloadBuffer) ∧
      (s.eng.busy = true → s.input = some (.storeByte i b) → step s = .refused .exclusiveAccessViolated) ∧
      (∀ buf, s.eng.busy = false → s.input = some (.passBuffer buf) →
        ∃ m : Memory, step s = .next { s with input := none, payload := m } ∧
          ∀ k, m.read k = if k < s.cfg.bufcap then buf[k]? else none) ∧
      (∀ buf, s.eng.busy = true → s.input = some (.passBuffer buf) → step s = .refused .exclusiveAccessViolated) ∧
      (s.eng.busy = true → s.input = some .foreignAccess → step s = .refused .exclusiveAccessViolated) ∧
      (s.eng.busy = false → s.input = some .foreignAccess → step s = .next { s with input := none })

/-- A configuration with `FIFO_DEPTH < 3` is refused (00_scope.md R8): no command is issued and none goes on. -/
def Obligations.ShallowFifoIsRefused : Prop :=
  ∀ (s : State) (i : Instr), s.cfg.fifoDepth < 3 → exec i s = .refused .badConfiguration

/-! ### The step tables -/

/-- The step table of REGWR (42_regwr.md R161) with the ten steps of FLUSH at its head (41_flush.md R151), each row as
its action, for every environment; issue sets `upc` to 0. -/
def Obligations.RegwrStepTable : Prop :=
  ∀ (addr reg val : Byte) (s : State),
    (Idle s → ∃ t, exec (.regwr addr reg val) s = .next t ∧ Running (.regwr addr reg val) 0 t) ∧
    (∀ n, Running (.regwr addr reg val) n s →
      (n = 0 → exec (.regwr addr reg val) s = loadT .intfl0 s State.advance) ∧
      (n = 1 → exec (.regwr addr reg val) s = store .intfl0 s.eng.t s State.advance) ∧
      (n = 2 → exec (.regwr addr reg val) s = loadT .intfl1 s State.advance) ∧
      (n = 3 → exec (.regwr addr reg val) s = store .intfl1 s.eng.t s State.advance) ∧
      (n = 4 → exec (.regwr addr reg val) s = loadT .txctrl s State.advance) ∧
      (n = 5 → exec (.regwr addr reg val) s = store .txctrl (s.eng.t ||| s.cfg.mTxflush) s State.advance) ∧
      (n = 6 → exec (.regwr addr reg val) s = loadT .txctrl s fun s' =>
        if s'.eng.t &&& s.cfg.mTxflush = 0#32 then s'.advance else s') ∧
      (n = 7 → exec (.regwr addr reg val) s = loadT .rxctrl s State.advance) ∧
      (n = 8 → exec (.regwr addr reg val) s = store .rxctrl (s.eng.t ||| s.cfg.mRxflush) s State.advance) ∧
      (n = 9 → exec (.regwr addr reg val) s = loadT .rxctrl s fun s' =>
        if s'.eng.t &&& s.cfg.mRxflush = 0#32 then s'.advance else s') ∧
      (n = 10 → exec (.regwr addr reg val) s = store .fifo (addr.setWidth 32) s State.advance) ∧
      (n = 11 → exec (.regwr addr reg val) s = loadT .mctrl s State.advance) ∧
      (n = 12 → exec (.regwr addr reg val) s = store .mctrl (s.eng.t ||| s.cfg.mStart) s State.advance) ∧
      (n = 13 → exec (.regwr addr reg val) s = store .fifo (reg.setWidth 32) s State.advance) ∧
      (n = 14 → exec (.regwr addr reg val) s = store .fifo (val.setWidth 32) s State.advance) ∧
      (n = 15 → exec (.regwr addr reg val) s = loadT .mctrl s State.advance) ∧
      (n = 16 → exec (.regwr addr reg val) s = store .mctrl (s.eng.t ||| s.cfg.mStop) s State.advance) ∧
      (n = 17 → exec (.regwr addr reg val) s = loadT .intfl0 s fun s' =>
        if s'.eng.t &&& s.cfg.mStopf = 0#32 then s' else s'.advance) ∧
      (n = 18 → exec (.regwr addr reg val) s = store .intfl0 s.cfg.mStopf s State.advance) ∧
      (n = 19 → exec (.regwr addr reg val) s = loadT .intfl0 s fun s' =>
        s'.complete (if s'.eng.t &&& errMask s.cfg = 0#32 then s.cfg.stOk else s.cfg.stCommErr)))

/-- The step table of BUFWR (43_bufwr.md R172), each row as its action, for every environment; issue sets `upc` to CHK,
written 31 (10_state.md R33). -/
def Obligations.BufwrStepTable : Prop :=
  ∀ (addr reg : Byte) (len : Word) (s : State),
    (Idle s → ∃ t, exec (.bufwr addr reg len) s = .next t ∧ Running (.bufwr addr reg len) 31 t) ∧
    (∀ n, Running (.bufwr addr reg len) n s →
      (n = 31 → exec (.bufwr addr reg len) s =
        if len.toInt > (s.cfg.fifoDepth : Int) - 2 then .next (s.complete s.cfg.stBadParam)
        else if len.toInt < 0 then .refused .negativeLength
        else .next ((s.setIdx 0#32).setUpc 0)) ∧
      (n = 0 → exec (.bufwr addr reg len) s = loadT .intfl0 s State.advance) ∧
      (n = 1 → exec (.bufwr addr reg len) s = store .intfl0 s.eng.t s State.advance) ∧
      (n = 2 → exec (.bufwr addr reg len) s = loadT .intfl1 s State.advance) ∧
      (n = 3 → exec (.bufwr addr reg len) s = store .intfl1 s.eng.t s State.advance) ∧
      (n = 4 → exec (.bufwr addr reg len) s = loadT .txctrl s State.advance) ∧
      (n = 5 → exec (.bufwr addr reg len) s = store .txctrl (s.eng.t ||| s.cfg.mTxflush) s State.advance) ∧
      (n = 6 → exec (.bufwr addr reg len) s = loadT .txctrl s fun s' =>
        if s'.eng.t &&& s.cfg.mTxflush = 0#32 then s'.advance else s') ∧
      (n = 7 → exec (.bufwr addr reg len) s = loadT .rxctrl s State.advance) ∧
      (n = 8 → exec (.bufwr addr reg len) s = store .rxctrl (s.eng.t ||| s.cfg.mRxflush) s State.advance) ∧
      (n = 9 → exec (.bufwr addr reg len) s = loadT .rxctrl s fun s' =>
        if s'.eng.t &&& s.cfg.mRxflush = 0#32 then s'.advance else s') ∧
      (n = 10 → exec (.bufwr addr reg len) s = store .fifo (addr.setWidth 32) s State.advance) ∧
      (n = 11 → exec (.bufwr addr reg len) s = loadT .mctrl s State.advance) ∧
      (n = 12 → exec (.bufwr addr reg len) s = store .mctrl (s.eng.t ||| s.cfg.mStart) s State.advance) ∧
      (n = 13 → exec (.bufwr addr reg len) s = store .fifo (reg.setWidth 32) s State.advance) ∧
      (n = 14 → exec (.bufwr addr reg len) s =
        if (s.eng.idx.toNat : Int) < len.toInt then
          andThen (bufRead s.eng.idx.toNat s) fun b =>
            store .fifo (b.setWidth 32) s fun s' => s'.setIdx (s'.eng.idx + 1#32)
        else .next s.advance) ∧
      (n = 15 → exec (.bufwr addr reg len) s = loadT .mctrl s State.advance) ∧
      (n = 16 → exec (.bufwr addr reg len) s = store .mctrl (s.eng.t ||| s.cfg.mStop) s State.advance) ∧
      (n = 17 → exec (.bufwr addr reg len) s = loadT .intfl0 s fun s' =>
        if s'.eng.t &&& s.cfg.mStopf = 0#32 then s' else s'.advance) ∧
      (n = 18 → exec (.bufwr addr reg len) s = store .intfl0 s.cfg.mStopf s State.advance) ∧
      (n = 19 → exec (.bufwr addr reg len) s = loadT .intfl0 s fun s' =>
        s'.complete (if s'.eng.t &&& errMask s.cfg = 0#32 then s.cfg.stOk else s.cfg.stCommErr)))

/-- The step table of REGRD (44_regrd.md R181) with the ten steps of FLUSH at its head (41_flush.md R151), each row as
its action, for every environment; issue sets `upc` to 0. -/
def Obligations.RegrdStepTable : Prop :=
  ∀ (addr reg : Byte) (s : State),
    (Idle s → ∃ t, exec (.regrd addr reg) s = .next t ∧ Running (.regrd addr reg) 0 t) ∧
    (∀ n, Running (.regrd addr reg) n s →
      (n = 0 → exec (.regrd addr reg) s = loadT .intfl0 s State.advance) ∧
      (n = 1 → exec (.regrd addr reg) s = store .intfl0 s.eng.t s State.advance) ∧
      (n = 2 → exec (.regrd addr reg) s = loadT .intfl1 s State.advance) ∧
      (n = 3 → exec (.regrd addr reg) s = store .intfl1 s.eng.t s State.advance) ∧
      (n = 4 → exec (.regrd addr reg) s = loadT .txctrl s State.advance) ∧
      (n = 5 → exec (.regrd addr reg) s = store .txctrl (s.eng.t ||| s.cfg.mTxflush) s State.advance) ∧
      (n = 6 → exec (.regrd addr reg) s = loadT .txctrl s fun s' =>
        if s'.eng.t &&& s.cfg.mTxflush = 0#32 then s'.advance else s') ∧
      (n = 7 → exec (.regrd addr reg) s = loadT .rxctrl s State.advance) ∧
      (n = 8 → exec (.regrd addr reg) s = store .rxctrl (s.eng.t ||| s.cfg.mRxflush) s State.advance) ∧
      (n = 9 → exec (.regrd addr reg) s = loadT .rxctrl s fun s' =>
        if s'.eng.t &&& s.cfg.mRxflush = 0#32 then s'.advance else s') ∧
      (n = 10 → exec (.regrd addr reg) s = store .fifo (addr.setWidth 32) s State.advance) ∧
      (n = 11 → exec (.regrd addr reg) s = loadT .mctrl s State.advance) ∧
      (n = 12 → exec (.regrd addr reg) s = store .mctrl (s.eng.t ||| s.cfg.mStart) s State.advance) ∧
      (n = 13 → exec (.regrd addr reg) s = store .fifo (reg.setWidth 32) s State.advance) ∧
      (n = 14 → exec (.regrd addr reg) s = store .rxcnt 0x00000001#32 s State.advance) ∧
      (n = 15 → exec (.regrd addr reg) s = loadT .mctrl s State.advance) ∧
      (n = 16 → exec (.regrd addr reg) s = store .mctrl (s.eng.t ||| s.cfg.mRestart) s State.advance) ∧
      (n = 17 → exec (.regrd addr reg) s = loadT .mctrl s fun s' =>
        if s'.eng.t &&& s.cfg.mRestart = 0#32 then s'.advance else s') ∧
      (n = 18 → exec (.regrd addr reg) s = store .fifo ((addr ||| 0x01#8).setWidth 32) s State.advance) ∧
      (n = 19 → exec (.regrd addr reg) s = loadT .intfl0 s fun s' =>
        if s'.eng.t &&& s.cfg.mRxthrf = 0#32 then s' else s'.advance) ∧
      (n = 20 → exec (.regrd addr reg) s = loadT .fifo s fun s' => (s'.setRdata (s'.eng.t.setWidth 8)).advance) ∧
      (n = 21 → exec (.regrd addr reg) s = store .intfl0 s.cfg.mRxthrf s State.advance) ∧
      (n = 22 → exec (.regrd addr reg) s = loadT .mctrl s State.advance) ∧
      (n = 23 → exec (.regrd addr reg) s = store .mctrl (s.eng.t ||| s.cfg.mStop) s State.advance) ∧
      (n = 24 → exec (.regrd addr reg) s = loadT .intfl0 s fun s' =>
        if s'.eng.t &&& s.cfg.mStopf = 0#32 then s' else s'.advance) ∧
      (n = 25 → exec (.regrd addr reg) s = store .intfl0 s.cfg.mStopf s State.advance) ∧
      (n = 26 → exec (.regrd addr reg) s = loadT .intfl0 s fun s' =>
        s'.complete (if s'.eng.t &&& errMask s.cfg = 0#32 then s.cfg.stOk else s.cfg.stCommErr)))

/-! ### Accesses -/

/-- A read access of the register space (00_scope.md R10, 20_memory.md R65, R66, R72, R78): the read answers the
register's content as PERIPHERAL left it, whatever that is; a read of `FIFO` removes the head of the RX FIFO and returns
it in bits [7:0], the other bits as PERIPHERAL has them; no other read changes the register block. The model's reading
(log 22, after 93 U4): a read of an empty RX FIFO returns whatever PERIPHERAL has there and leaves it empty;
PERIPHERAL's moves are the queue's (log 5). -/
def Obligations.ReadAccessAnswersThePeripheral : Prop :=
  ∀ (s : State) (p : Periph) (ps : List Periph),
    s.cfg.wf = true → s.mock = none → s.turns = p :: ps →
    let got (r : Reg) (v : Word) (q : Periph) : Prop :=
      memRead (s.cfg.base + s.cfg.offset r) s =
        .next (v, { s with periph := q, turns := ps, trace := s.trace ++ [.read r v] })
    got .mctrl p.mctrl p ∧ got .txctrl p.txctrl p ∧ got .rxctrl p.rxctrl p ∧ got .rxcnt p.rxcnt p ∧
      got .intfl0 p.intfl0 p ∧ got .intfl1 p.intfl1 p ∧
      (p.rxFifo = [] → got .fifo p.fifoOpen p) ∧
      (∀ b rest, p.rxFifo = b :: rest →
        ∃ v, got .fifo v { p with rxFifo := rest } ∧ v.extractLsb' 0 8 = b ∧
          v.extractLsb' 8 24 = p.fifoOpen.extractLsb' 8 24)

/-- A write access of the register space (00_scope.md R10, 20_memory.md R64, R65, R66): `FIFO` pushes bits [7:0] onto the
tail of the TX FIFO; a flag register keeps exactly the flags whose bit is 0 in the value written; the others hold the
value written. The flags are those PERIPHERAL has set by the time of the write. The model's choice (log 21): until
PERIPHERAL moves again the four other registers hold exactly the value written, `START` and `STOP` among its bits, and a
push joins the tail of a full TX FIFO too (93 U3). -/
def Obligations.WriteAccessReachesThePeripheral : Prop :=
  ∀ (s : State) (p : Periph) (ps : List Periph) (v : Word),
    s.cfg.wf = true → s.mock = none → s.turns = p :: ps →
    let put (r : Reg) (q : Periph) : Prop :=
      memWrite (s.cfg.base + s.cfg.offset r) v s =
        .next { s with periph := q, turns := ps, trace := s.trace ++ [.write r v] }
    put .mctrl { p with mctrl := v } ∧ put .txctrl { p with txctrl := v } ∧ put .rxctrl { p with rxctrl := v } ∧
      put .rxcnt { p with rxcnt := v } ∧
      put .fifo { p with txFifo := p.txFifo ++ [v.extractLsb' 0 8] } ∧
      (∃ f, put .intfl0 { p with intfl0 := f } ∧ ∀ k, f.getLsbD k = (p.intfl0.getLsbD k && !v.getLsbD k)) ∧
      (∃ f, put .intfl1 { p with intfl1 := f } ∧ ∀ k, f.getLsbD k = (p.intfl1.getLsbD k && !v.getLsbD k))

/-- The address map (20_memory.md R60, R78, R80): the seven registers have seven addresses, all as aligned as `BASE`; an
access of any other address is refused. The model's choice (log 31): addresses are natural numbers that never wrap, and
that the seven are distinct rests on it. -/
def Obligations.OnlyTheSevenRegistersAnswer : Prop :=
  ∀ s : State, s.cfg.wf = true →
    (∀ r r' : Reg, s.cfg.base + s.cfg.offset r = s.cfg.base + s.cfg.offset r' → r = r') ∧
      (∀ r : Reg, (s.cfg.base + s.cfg.offset r) % 4 = s.cfg.base % 4) ∧
      ∀ a v, (∀ r : Reg, s.cfg.base + s.cfg.offset r ≠ a) →
        memRead a s = .refused .outOfMapAccess ∧ memWrite a v s = .refused .outOfMapAccess

/-- `SETB` is two accesses (20_memory.md R64, 40_microops.md R132): the value written is computed from the value read,
so every other bit is written as it was read, a bit PERIPHERAL cleared in between is written back as 1, and what
PERIPHERAL did to the rest of the block in between stands. The model's choice (log 21): until PERIPHERAL moves again the
register holds the value written. -/
def Obligations.SetbIsReadThenWrite : Prop :=
  ∀ (s : State) (b : FlagBit) (p q : Periph) (ps : List Periph),
    s.cfg.wf = true → s.mock = none → s.turns = p :: q :: ps →
    let two (r : Reg) (v : Word) (q' : Periph) : Prop :=
      andThen (microStep (.setbRead r) s) (microStep (.setbWrite r b)) = .next { s with
        eng := { s.eng with t := v, upc := s.eng.upc + 2 }
        periph := q'
        turns := ps
        trace := s.trace ++ [.read r v, .write r (v ||| s.cfg.mask b)] }
    two .mctrl p.mctrl { q with mctrl := p.mctrl ||| s.cfg.mask b } ∧
      two .txctrl p.txctrl { q with txctrl := p.txctrl ||| s.cfg.mask b } ∧
      two .rxctrl p.rxctrl { q with rxctrl := p.rxctrl ||| s.cfg.mask b }

/-- `WBK` (40_microops.md R138): a flag register is written with the value just read, also when that is 0; the flags read
as 1 are cleared, and a flag PERIPHERAL set after the read is not (20_memory.md R64 (a)). -/
def Obligations.WriteBackSparesNewFlags : Prop :=
  ∀ (s : State) (p q : Periph) (ps : List Periph),
    s.cfg.wf = true → s.mock = none → s.turns = p :: q :: ps →
    (∃ f, andThen (microStep (.wbkRead .intfl0) s) (microStep (.wbkWrite .intfl0)) = .next { s with
        eng := { s.eng with t := p.intfl0, upc := s.eng.upc + 2 }
        periph := { q with intfl0 := f }
        turns := ps
        trace := s.trace ++ [.read .intfl0 p.intfl0, .write .intfl0 p.intfl0] } ∧
      ∀ k, f.getLsbD k = (q.intfl0.getLsbD k && !p.intfl0.getLsbD k)) ∧
    (∃ f, andThen (microStep (.wbkRead .intfl1) s) (microStep (.wbkWrite .intfl1)) = .next { s with
        eng := { s.eng with t := p.intfl1, upc := s.eng.upc + 2 }
        periph := { q with intfl1 := f }
        turns := ps
        trace := s.trace ++ [.read .intfl1 p.intfl1, .write .intfl1 p.intfl1] } ∧
      ∀ k, f.getLsbD k = (q.intfl1.getLsbD k && !p.intfl1.getLsbD k))

/-- `PUSH b` (40_microops.md R131): one write of the zero-extended byte to `FIFO`; it joins the TX FIFO's tail. The
operand is `x[ADDR]` as given, `x[REG]`, `x[VAL]`, or `x[ADDR] | 0x01`; on the engine's side only `UPC` moves. The
model's choice (log 21): a full TX FIFO takes the byte too (93 U3). -/
def Obligations.PushJoinsTheTxFifo : Prop :=
  ∀ (s : State) (p : Periph) (ps : List Periph),
    s.cfg.wf = true → s.mock = none → s.turns = p :: ps →
    let pushed (o : PushOperand) (b : Byte) : Prop :=
      microStep (.push o) s = .next { s with
        eng := { s.eng with upc := s.eng.upc + 1 }
        periph := { p with txFifo := p.txFifo ++ [b] }
        turns := ps
        trace := s.trace ++ [.write .fifo (b.setWidth 32)] }
    pushed .addr s.eng.addr ∧ pushed .reg s.eng.reg ∧ pushed .val s.eng.val ∧ pushed .addrRead (s.eng.addr ||| 0x01#8)

/-- `W1C INTFL0, mask` in REGWR, BUFWR (step 18) and REGRD (steps 21 and 25) (40_microops.md R134): one write of the mask
alone, no read; it clears the one flag and leaves every other flag, each error flag among them, as PERIPHERAL has it. -/
def Obligations.ClearingOneFlagKeepsTheOthers : Prop :=
  ∀ (s : State) (i : Instr) (n : Nat) (p : Periph) (ps : List Periph),
    Running i n s → s.mock = none → s.turns = p :: ps →
    let cleared (mask : Word) : Prop :=
      ∃ f, exec i s = .next { s with
          eng := { s.eng with upc := n + 1 }
          periph := { p with intfl0 := f }
          turns := ps
          trace := s.trace ++ [.write .intfl0 mask] } ∧
        (∀ k, f.getLsbD k = (p.intfl0.getLsbD k && !mask.getLsbD k)) ∧
        f &&& mask = 0#32 ∧ ∀ m ∈ s.cfg.errMasks, f &&& m = p.intfl0 &&& m
    (∀ addr reg val, i = .regwr addr reg val → n = 18 → cleared s.cfg.mStopf) ∧
      (∀ addr reg len, i = .bufwr addr reg len → n = 18 → cleared s.cfg.mStopf) ∧
      (∀ addr reg, i = .regrd addr reg → n = 21 → cleared s.cfg.mRxthrf) ∧
      (∀ addr reg, i = .regrd addr reg → n = 25 → cleared s.cfg.mStopf)

/-- A busy-wait has no bound (40_microops.md R135, R136; 60_exceptions.md R208 (c), R211): after any number of reads that
show the waiting value, whatever the other bits show, the engine is still at the same step of the same command with
`BUSY` = 1 and no status written, and each iteration was one fresh read. The waits are steps 6, 9 and 17 of REGWR and
BUFWR, and steps 6, 9, 17, 19 and 24 of REGRD. -/
def Obligations.BusyWaitHasNoBound : Prop :=
  ∀ (s : State) (i : Instr) (n : Nat) (ws : List Periph) (w : Periph) (rest : List Periph),
    Running i n s → s.mock = none → s.input = none → s.turns = ws ++ [w] ++ rest →
    let hangs (r : Reg) (waiting : Periph → Prop) : Prop :=
      (∀ p ∈ ws ++ [w], waiting p) →
      stepN (ws.length + 1) s = .next { s with
        eng := { s.eng with t := periphReadValue r w }
        periph := w
        turns := rest
        trace := s.trace ++ (ws ++ [w]).map fun p => .read r (periphReadValue r p) }
    (i.opcode ≠ 0x04#8 → n = 6 → hangs .txctrl fun p => p.txctrl &&& s.cfg.mTxflush ≠ 0#32) ∧
      (i.opcode ≠ 0x04#8 → n = 9 → hangs .rxctrl fun p => p.rxctrl &&& s.cfg.mRxflush ≠ 0#32) ∧
      ((i.opcode = 0x01#8 ∨ i.opcode = 0x02#8) → n = 17 → hangs .intfl0 fun p => p.intfl0 &&& s.cfg.mStopf = 0#32) ∧
      (i.opcode = 0x03#8 → n = 17 → hangs .mctrl fun p => p.mctrl &&& s.cfg.mRestart ≠ 0#32) ∧
      (i.opcode = 0x03#8 → n = 19 → hangs .intfl0 fun p => p.intfl0 &&& s.cfg.mRxthrf = 0#32) ∧
      (i.opcode = 0x03#8 → n = 24 → hangs .intfl0 fun p => p.intfl0 &&& s.cfg.mStopf = 0#32)

/-- `POP`, step 20 of REGRD (40_microops.md R137): one read of `FIFO`; `RDATA` receives bits [7:0] of the value and the
rest is discarded, whatever the flags say. The model's reading (log 22, after 93 U4): of an empty RX FIFO the value is
whatever PERIPHERAL has there, and the FIFO stays empty. -/
def Obligations.PopWritesRdata : Prop :=
  ∀ (s : State) (addr reg : Byte) (p : Periph) (ps : List Periph),
    Running (.regrd addr reg) 20 s → s.mock = none → s.turns = p :: ps →
    ∃ v, exec (.regrd addr reg) s = .next { s with
        eng := { s.eng with t := v, rdata := v.extractLsb' 0 8, upc := 21 }
        periph := { p with rxFifo := p.rxFifo.tail }
        turns := ps
        trace := s.trace ++ [.read .fifo v] } ∧
      (∀ b rest, p.rxFifo = b :: rest → v.extractLsb' 0 8 = b) ∧ (p.rxFifo = [] → v = p.fifoOpen)

/-- `EVAL`, the last step of every transaction (40_microops.md R139): one read of `INTFL0`; the command completes with
`ST_COMM_ERR` when at least one of the seven error bits is 1 in the value read, whichever it is, and with `ST_OK` when
all seven are 0, whatever the other bits are. The flags are left as they are. Completion writes `STATUS`, clears `BUSY`
and does nothing else (60_exceptions.md R204). The model's reading (log 9): `UPC`, meaningless then, keeps its number. -/
def Obligations.EvalCompletesTheTransaction : Prop :=
  ∀ (s : State) (i : Instr) (n : Nat) (p : Periph) (ps : List Periph),
    Running i n s → s.mock = none → s.turns = p :: ps →
    (((i.opcode = 0x01#8 ∨ i.opcode = 0x02#8) ∧ n = 19) ∨ (i.opcode = 0x03#8 ∧ n = 26)) →
    let completes (st : Word) : Prop :=
      exec i s = .next { s with
        eng := { s.eng with t := p.intfl0, status := st, busy := false }
        periph := p
        turns := ps
        trace := s.trace ++ [.read .intfl0 p.intfl0] }
    ((∃ m ∈ s.cfg.errMasks, p.intfl0 &&& m ≠ 0#32) → completes s.cfg.stCommErr) ∧
      ((∀ m ∈ s.cfg.errMasks, p.intfl0 &&& m = 0#32) → completes s.cfg.stOk)

/-- `CHKLEN` (40_microops.md R140): a length above `FIFO_DEPTH - 2`, compared signed, completes `BUFWR` with
`ST_BAD_PARAM`, no access and nothing but `STATUS` and `BUSY` written (so 43_bufwr.md R171); a negative length is
refused; any other goes on at step 0 with `IDX` at 0. -/
def Obligations.ChklenDecides : Prop :=
  ∀ (s : State) (addr reg : Byte) (len : Word),
    Running (.bufwr addr reg len) 31 s →
    ((s.cfg.fifoDepth : Int) - 2 < len.toInt →
      exec (.bufwr addr reg len) s =
        .next { s with eng := { s.eng with status := s.cfg.stBadParam, busy := false } }) ∧
      (len.toInt < 0 → exec (.bufwr addr reg len) s = .refused .negativeLength) ∧
      (0 ≤ len.toInt → len.toInt ≤ (s.cfg.fifoDepth : Int) - 2 →
        exec (.bufwr addr reg len) s = .next { s with eng := { s.eng with idx := 0#32, upc := 0 } })

/-- The payload step (43_bufwr.md R172 step 14): while `IDX < LEN` the byte at `IDX` is pushed, `IDX` is incremented and
the step is taken again; then control goes on without an access. A byte HOST has not written is refused (20_memory.md
R62). The model's choice: a full TX FIFO takes the byte too (log 21), and a negative `LEN`, which no run brings here, is
below every `IDX` (log 15). -/
def Obligations.PayloadStepPushesTheNextByte : Prop :=
  ∀ (s : State) (addr reg : Byte) (len : Word) (p : Periph) (ps : List Periph),
    Running (.bufwr addr reg len) 14 s → s.mock = none → s.turns = p :: ps →
    (∀ b, (s.eng.idx.toNat : Int) < len.toInt → s.eng.idx.toNat < s.cfg.bufcap →
      s.payload.read s.eng.idx.toNat = some b →
      exec (.bufwr addr reg len) s = .next { s with
        eng := { s.eng with idx := s.eng.idx + 1#32 }
        periph := { p with txFifo := p.txFifo ++ [b] }
        turns := ps
        trace := s.trace ++ [.write .fifo (b.setWidth 32)] }) ∧
      ((s.eng.idx.toNat : Int) < len.toInt → s.eng.idx.toNat < s.cfg.bufcap →
        s.payload.read s.eng.idx.toNat = none →
        exec (.bufwr addr reg len) s = .refused .unwrittenBufferByte) ∧
      (len.toInt ≤ (s.eng.idx.toNat : Int) →
        exec (.bufwr addr reg len) s = .next { s with eng := { s.eng with upc := 15 } })

/-- `CALL` at steps 0 to 3 of INIT (40_microops.md R141, 45_init.md R191, R192): the environment returns any value; a
failure (any value but `ST_OK`; for set-frequency a negative one) completes INIT with that value, any other goes on with
the effect of R192. What a failing call leaves of its own field, and the frequency, are the environment's. The model's
choice: a failing call leaves the four other fields alone (log 16), no call touches the register block (log 33), and
`UPC` keeps its number at completion (log 9). -/
def Obligations.CallSucceedsOrEndsInit : Prop :=
  ∀ (s : State) (speed : Word) (n : Nat) (a : CallReply) (as : List CallReply),
    Running (.init speed) n s → s.mock = none → s.calls = a :: as →
    let outcome (rec : CallRecord) (fails : Prop) (ok left : PeriphConfig) : Prop :=
      (fails → exec (.init speed) s = .next { s with
        eng := { s.eng with status := a.ret, busy := false }
        env := left
        calls := as
        trace := s.trace ++ [.call rec (some a.ret)] }) ∧
      (¬ fails → exec (.init speed) s = .next { s with
        eng := { s.eng with upc := n + 1 }
        env := ok
        calls := as
        trace := s.trace ++ [.call rec (some a.ret)] })
    (n = 0 → outcome (.peripheralInit s.cfg.base s.cfg.modeMaster s.cfg.initOpts) (a.ret ≠ s.cfg.stOk)
        { s.env with mode := s.cfg.modeMaster } { s.env with mode := a.field }) ∧
      (n = 1 → outcome (.setFrequency s.cfg.base speed) (a.ret.toInt < 0)
        { s.env with hz := a.field } { s.env with hz := a.field }) ∧
      (n = 2 → outcome (.setTxThreshold s.cfg.base 1#32) (a.ret ≠ s.cfg.stOk)
        { s.env with txthr := 1#32 } { s.env with txthr := a.field }) ∧
      (n = 3 → outcome (.setRxThreshold s.cfg.base 1#32) (a.ret ≠ s.cfg.stOk)
        { s.env with rxthr := 1#32 } { s.env with rxthr := a.field })

/-- The last two steps of INIT (40_microops.md R145, 45_init.md R192, R194), in every environment: the two bits of
`GPIO_DS_MASK` are set, the others unchanged; then INIT completes with `ST_OK`. The model's reading (log 9): `UPC`,
meaningless then, keeps its number. -/
def Obligations.GpioBitsThenInitCompletes : Prop :=
  ∀ (s : State) (speed : Word),
    (Running (.init speed) 4 s →
      exec (.init speed) s = .next { s with
        eng := { s.eng with upc := 5 }
        env := { s.env with gpioDs := s.env.gpioDs ||| s.cfg.gpioDsMask }
        trace := s.trace ++ [.call (.gpioDriveStrength s.cfg.gpioDsMask) none] }) ∧
      (Running (.init speed) 5 s →
        exec (.init speed) s = .next { s with eng := { s.eng with status := s.cfg.stOk, busy := false } })

/-! ### Whole commands, from issue to completion -/

/-- REGWR, whole (42_regwr.md R160 to R163, 60_exceptions.md R202): for every environment whose answers end the three
busy-waits, however many reads each takes, the command completes with exactly the trace of the step table, `ST_COMM_ERR`
if the last read shows an error bit and `ST_OK` otherwise; of the engine registers only `T`, `STATUS`, `BUSY` and `UPC`
differ from what issue left, and the payload and the configuration state are untouched. The model's reading (log 9):
`UPC`, meaningless after completion, stays at 19. -/
def Obligations.RegwrTransaction : Prop :=
  ∀ (s : State) (addr reg val : Byte) (f : FlushTurns) (a : AddressTurns) (v : Periph) (z : StopTurns)
    (rest : List Periph),
    Idle s → s.mock = none → s.input = none → f.Ends s.cfg → z.Ends s.cfg →
    s.turns = f.turns ++ a.turns ++ [v] ++ z.turns ++ rest →
    issueAndRun (.regwr addr reg val) (20 + f.txWait.length + f.rxWait.length + z.stopWait.length) s =
      .next { s with
        eng := { s.eng with
          op := 0x01#8, addr := addr, reg := reg, val := val, t := z.eval.intfl0
          status := transactionStatus s.cfg z.eval.intfl0, busy := false, upc := 19 }
        periph := z.eval
        turns := rest
        trace := s.trace ++ f.trace s.cfg ++ a.trace s.cfg addr reg ++ [.write .fifo (val.setWidth 32)] ++
          z.trace s.cfg }

/-- BUFWR of an admitted length, whole (43_bufwr.md R170 to R173): the length check makes no access; between the flush
and STOP exactly `len + 2` bytes are pushed, the address byte, the register address and the payload bytes in ascending
index order; `len` may be 0. The model's reading: `UPC` stays at 19 after completion (log 9) and issue copied 0 to `VAL`
(log 17). -/
def Obligations.BufwrTransaction : Prop :=
  ∀ (s : State) (addr reg : Byte) (len : Word) (bytes : List Byte) (f : FlushTurns) (a : AddressTurns)
    (vs : List Periph) (z : StopTurns) (rest : List Periph),
    Idle s → s.mock = none → s.input = none → f.Ends s.cfg → z.Ends s.cfg →
    len.toInt = (bytes.length : Int) → bytes.length + 2 ≤ s.cfg.fifoDepth → vs.length = bytes.length →
    (∀ k (h : k < bytes.length), s.payload.read k = some bytes[k]) →
    s.turns = f.turns ++ a.turns ++ vs ++ z.turns ++ rest →
    issueAndRun (.bufwr addr reg len)
        (21 + bytes.length + f.txWait.length + f.rxWait.length + z.stopWait.length) s =
      .next { s with
        eng := { s.eng with
          op := 0x02#8, addr := addr, reg := reg, val := 0#8, len := len, idx := len, t := z.eval.intfl0
          status := transactionStatus s.cfg z.eval.intfl0, busy := false, upc := 19 }
        periph := z.eval
        turns := rest
        trace := s.trace ++ f.trace s.cfg ++ a.trace s.cfg addr reg ++
          bytes.map (fun b => .write .fifo (b.setWidth 32)) ++ z.trace s.cfg }

/-- BUFWR of a length above `FIFO_DEPTH - 2`, whole, in every environment (43_bufwr.md R171, 60_exceptions.md R201): two
steps after it is presented it has completed with `ST_BAD_PARAM`; no access, and no engine register written but the
command registers at issue, `STATUS`, `BUSY` and `UPC`. The model's reading: issue copied 0 to `VAL` (log 17), and `UPC`
stays at 31 (log 9). -/
def Obligations.BufwrTooLongTouchesNothing : Prop :=
  ∀ (s : State) (addr reg : Byte) (len : Word),
    Idle s → s.input = none → (s.cfg.fifoDepth : Int) - 2 < len.toInt →
    issueAndRun (.bufwr addr reg len) 1 s = .next { s with eng := { s.eng with
      op := 0x02#8, addr := addr, reg := reg, val := 0#8, len := len
      status := s.cfg.stBadParam, busy := false, upc := 31 } }

/-- A BUFWR whose buffer is shorter than its length (20_memory.md R62, 43_bufwr.md R174 (b)): whatever earlier calls left
in the payload buffer space, once HOST has passed a buffer of fewer than `len` bytes the command never completes, in no
environment and after no number of steps; the payload step that has pushed every byte of the buffer is refused. Passing a
buffer as one action of HOST is the model's reading (log 32). -/
def Obligations.ShortBufferIsRefused : Prop :=
  ∀ (s : State) (addr reg : Byte) (len : Word) (buf : List Byte),
    Idle s → s.input = some (.passBuffer buf) → (buf.length : Int) < len.toInt →
    len.toInt ≤ (s.cfg.fifoDepth : Int) - 2 →
    ∃ t, step s = .next t ∧
      (∀ n u, issueAndRun (.bufwr addr reg len) n t = .next u → u.eng.busy = true) ∧
      ∀ u, Running (.bufwr addr reg len) 14 u → u.cfg = t.cfg → u.payload = t.payload →
        u.eng.idx.toNat = buf.length → exec (.bufwr addr reg len) u = .refused .unwrittenBufferByte

/-- REGRD, whole (44_regrd.md R180 to R184): RESTART is asserted between the register-address push and the push of the
address with the read bit, RXCNT is written before it, and `RDATA` receives the popped byte whatever the evaluation then
says. The model's reading: `UPC` stays at 26 after completion (log 9), issue copied 0 to `VAL` (log 17), and an empty RX
FIFO is read as PERIPHERAL has it (log 22). -/
def Obligations.RegrdTransaction : Prop :=
  ∀ (s : State) (addr reg : Byte) (f : FlushTurns) (a : AddressTurns) (r : ReadTurns) (z : StopTurns)
    (rest : List Periph),
    Idle s → s.mock = none → s.input = none → f.Ends s.cfg → r.Ends s.cfg → z.Ends s.cfg →
    s.turns = f.turns ++ a.turns ++ r.turns ++ z.turns ++ rest →
    issueAndRun (.regrd addr reg)
        (27 + f.txWait.length + f.rxWait.length + r.restartWait.length + r.byteWait.length + z.stopWait.length) s =
      .next { s with
        eng := { s.eng with
          op := 0x03#8, addr := addr, reg := reg, val := 0#8, t := z.eval.intfl0
          rdata := (fifoReadValue r.pop).setWidth 8
          status := transactionStatus s.cfg z.eval.intfl0, busy := false, upc := 26 }
        periph := z.eval
        turns := rest
        trace := s.trace ++ f.trace s.cfg ++ a.trace s.cfg addr reg ++ r.trace s.cfg addr ++ z.trace s.cfg }

/-- INIT with every collaborator succeeding, whole (45_init.md R190 to R194): five entries in the fixed order, no
register access, `ST_OK` whatever set-frequency returned; only the five configuration fields and `STATUS`, `BUSY`, `UPC`
differ from what issue left. The model's choice: no call touches the register block (log 33), `UPC` stays at 5 after
completion (log 9), and issue copied 0 to `ADDR`, `REG` and `VAL` (log 17). -/
def Obligations.InitSucceeds : Prop :=
  ∀ (s : State) (speed : Word) (a0 a1 a2 a3 : CallReply) (rest : List CallReply),
    Idle s → s.mock = none → s.input = none → s.calls = a0 :: a1 :: a2 :: a3 :: rest →
    a0.ret = s.cfg.stOk → 0 ≤ a1.ret.toInt → a2.ret = s.cfg.stOk → a3.ret = s.cfg.stOk →
    issueAndRun (.init speed) 6 s = .next { s with
      eng := { s.eng with
        op := 0x04#8, addr := 0#8, reg := 0#8, val := 0#8, speed := speed
        status := s.cfg.stOk, busy := false, upc := 5 }
      env := { mode := s.cfg.modeMaster, hz := a1.field, txthr := 1#32, rxthr := 1#32,
               gpioDs := s.env.gpioDs ||| s.cfg.gpioDsMask }
      calls := rest
      trace := s.trace ++
        [.call (.peripheralInit s.cfg.base s.cfg.modeMaster s.cfg.initOpts) (some a0.ret),
          .call (.setFrequency s.cfg.base speed) (some a1.ret),
          .call (.setTxThreshold s.cfg.base 1#32) (some a2.ret),
          .call (.setRxThreshold s.cfg.base 1#32) (some a3.ret),
          .call (.gpioDriveStrength s.cfg.gpioDsMask) none] }

/-- INIT fails fast (45_init.md R193): the first failing collaborator's value is the status, the earlier effects stand,
later calls do not run, and the trace ends with the failing call. The model's choice: a failing call leaves the fields
of the others alone (log 16), no call touches the register block (log 33), `UPC` keeps the failing step's number (log
9), and issue copied 0 to `ADDR`, `REG` and `VAL` (log 17). -/
def Obligations.InitFailsFast : Prop :=
  ∀ (s : State) (speed : Word) (a0 a1 a2 a3 : CallReply) (rest : List CallReply),
    Idle s → s.mock = none → s.input = none → s.calls = a0 :: a1 :: a2 :: a3 :: rest →
    let c0 : TraceEntry := .call (.peripheralInit s.cfg.base s.cfg.modeMaster s.cfg.initOpts) (some a0.ret)
    let c1 : TraceEntry := .call (.setFrequency s.cfg.base speed) (some a1.ret)
    let c2 : TraceEntry := .call (.setTxThreshold s.cfg.base 1#32) (some a2.ret)
    let c3 : TraceEntry := .call (.setRxThreshold s.cfg.base 1#32) (some a3.ret)
    let ends (k : Nat) (st : Word) (env : PeriphConfig) (calls : List CallReply) (tr : List TraceEntry) : Prop :=
      issueAndRun (.init speed) (k + 1) s = .next { s with
        eng := { s.eng with
          op := 0x04#8, addr := 0#8, reg := 0#8, val := 0#8, speed := speed, status := st, busy := false, upc := k }
        env := env
        calls := calls
        trace := s.trace ++ tr }
    (a0.ret ≠ s.cfg.stOk → ends 0 a0.ret { s.env with mode := a0.field } (a1 :: a2 :: a3 :: rest) [c0]) ∧
      (a0.ret = s.cfg.stOk → a1.ret.toInt < 0 →
        ends 1 a1.ret { s.env with mode := s.cfg.modeMaster, hz := a1.field } (a2 :: a3 :: rest) [c0, c1]) ∧
      (a0.ret = s.cfg.stOk → 0 ≤ a1.ret.toInt → a2.ret ≠ s.cfg.stOk →
        ends 2 a2.ret { s.env with mode := s.cfg.modeMaster, hz := a1.field, txthr := a2.field } (a3 :: rest)
          [c0, c1, c2]) ∧
      (a0.ret = s.cfg.stOk → 0 ≤ a1.ret.toInt → a2.ret = s.cfg.stOk → a3.ret ≠ s.cfg.stOk →
        ends 3 a3.ret { s.env with mode := s.cfg.modeMaster, hz := a1.field, txthr := 1#32, rxthr := a3.field } rest
          [c0, c1, c2, c3])

/-! ### Invariants and whole-machine rules -/

/-- The invariant holds after reset. The model's choice (log 7): reset carries the default parameters of 00_scope.md R7,
and that its configuration is well-formed is about these values. -/
def Obligations.ResetMeetsTheInvariant : Prop := Inv State.reset

/-- Every step keeps the invariant: a well-formed configuration, the payload buffer in its canonical form below `BUFCAP`,
`UPC` inside the running command's table (10_state.md R32), and while BUFWR runs past its check `0 <= LEN <= FIFO_DEPTH -
2` with `IDX` counting the pushed bytes (10_state.md R29, 40_microops.md R142 (b)). -/
def Obligations.EveryStepKeepsTheInvariant : Prop :=
  ∀ s t : State, Inv s → step s = .next t → Inv t

/-- From a state of the invariant the engine always has its next micro-step, whatever the unconstrained environment
answers (20_memory.md R72, 40_microops.md R130): only a negative length (R140) or an unwritten payload byte (20_memory.md
R62) of an admitted length stops it; of a length above `FIFO_DEPTH - 2` no byte need be stored. -/
def Obligations.EngineAlwaysHasItsNextMicroStep : Prop :=
  ∀ (s : State) (i : Instr), Inv s → s.eng.busy = true → latched s.eng = some i → s.mock = none →
    (∀ addr reg len, i = .bufwr addr reg len → len.toInt ≤ (s.cfg.fifoDepth : Int) - 2 →
      0 ≤ len.toInt ∧ ∀ k : Nat, (k : Int) < len.toInt → (s.payload.read k).isSome = true) →
    ∃ t, exec i s = .next t

/-- INIT ends by itself (70_reset_and_hazards.md R246): in every environment it has completed at most six micro-steps
after its issue, and with `ST_OK`, or with the value of a collaborator that failed, whose call ends the trace. -/
def Obligations.InitAlwaysCompletes : Prop :=
  ∀ (s : State) (speed : Word), Idle s → s.input = none →
    ∃ n t, n ≤ 6 ∧ issueAndRun (.init speed) n s = .next t ∧ t.eng.busy = false ∧
      (t.eng.status = s.cfg.stOk ∨ ∃ k, callFails s.cfg k t.eng.status = true ∧
        t.trace.getLast? = some (.call (callRecord k t) (some t.eng.status)))

/-- While `BUSY` is 1 the command registers are constant (10_state.md R31, 20_memory.md R76), and the only engine
registers that change are `STATUS`, `RDATA`, `IDX`, `T`, `BUSY` and `UPC`. -/
def Obligations.CommandRegistersConstantWhileBusy : Prop :=
  ∀ s t : State, s.eng.busy = true → step s = .next t →
    t.eng = { s.eng with status := t.eng.status, rdata := t.eng.rdata, idx := t.eng.idx, t := t.eng.t,
                         busy := t.eng.busy, upc := t.eng.upc }

/-- `STATUS` is written at completion and at no other time (10_state.md R27, 60_exceptions.md R204). -/
def Obligations.StatusWrittenOnlyAtCompletion : Prop :=
  ∀ s t : State, step s = .next t → t.eng.status ≠ s.eng.status → s.eng.busy = true ∧ t.eng.busy = false

/-- `BUSY` falls only at CHKLEN, EVAL, a failing CALL or the end of INIT (40_microops.md R143), and the status is one of
the closed set (60_exceptions.md R200); and a busy-wait is left only by its own condition (60_exceptions.md R211): a
step at a wait keeps `BUSY` at 1, and goes on exactly when the value it read shows what is awaited. -/
def Obligations.CompletionHappensOnlyAtTheseSteps : Prop :=
  ∀ s t : State, step s = .next t → s.eng.busy = true →
    (t.eng.busy = false →
      (s.eng.op = 0x01#8 ∧ s.eng.upc = 19 ∧ (t.eng.status = s.cfg.stOk ∨ t.eng.status = s.cfg.stCommErr)) ∨
        (s.eng.op = 0x02#8 ∧ s.eng.upc = 19 ∧ (t.eng.status = s.cfg.stOk ∨ t.eng.status = s.cfg.stCommErr)) ∨
        (s.eng.op = 0x02#8 ∧ s.eng.upc = 31 ∧ t.eng.status = s.cfg.stBadParam) ∨
        (s.eng.op = 0x03#8 ∧ s.eng.upc = 26 ∧ (t.eng.status = s.cfg.stOk ∨ t.eng.status = s.cfg.stCommErr)) ∨
        (s.eng.op = 0x04#8 ∧ s.eng.upc ≤ 3 ∧ ∃ k, callFails s.cfg k t.eng.status = true ∧
          t.trace = s.trace ++ [.call (callRecord k s) (some t.eng.status)]) ∨
        (s.eng.op = 0x04#8 ∧ s.eng.upc = 5 ∧ t.eng.status = s.cfg.stOk)) ∧
      let waits (r : Reg) (ready : Word → Prop) : Prop :=
        t.eng.busy = true ∧ ∃ v, t.trace = s.trace ++ [.read r v] ∧
          (ready v → t.eng.upc = s.eng.upc + 1) ∧ (¬ ready v → t.eng.upc = s.eng.upc)
      (s.eng.op ≠ 0x04#8 → s.eng.upc = 6 → waits .txctrl fun v => v &&& s.cfg.mTxflush = 0#32) ∧
        (s.eng.op ≠ 0x04#8 → s.eng.upc = 9 → waits .rxctrl fun v => v &&& s.cfg.mRxflush = 0#32) ∧
        (s.eng.op = 0x01#8 ∨ s.eng.op = 0x02#8 → s.eng.upc = 17 → waits .intfl0 fun v => v &&& s.cfg.mStopf ≠ 0#32) ∧
        (s.eng.op = 0x03#8 → s.eng.upc = 17 → waits .mctrl fun v => v &&& s.cfg.mRestart = 0#32) ∧
        (s.eng.op = 0x03#8 → s.eng.upc = 19 → waits .intfl0 fun v => v &&& s.cfg.mRxthrf ≠ 0#32) ∧
        (s.eng.op = 0x03#8 → s.eng.upc = 24 → waits .intfl0 fun v => v &&& s.cfg.mStopf ≠ 0#32)

/-- `RDATA` is written by exactly one micro-step of the whole engine, the `POP` step of REGRD, with bits [7:0] of the
value the `FIFO` read returned (10_state.md R28, 20_memory.md R63). -/
def Obligations.RdataWrittenOnlyByPop : Prop :=
  ∀ s t : State, step s = .next t →
    (¬ (s.eng.busy = true ∧ s.eng.op = 0x03#8 ∧ s.eng.upc = 20) → t.eng.rdata = s.eng.rdata) ∧
      (s.eng.busy = true → s.eng.op = 0x03#8 → s.eng.upc = 20 →
        ∃ v, t.trace = s.trace ++ [.read .fifo v] ∧ t.eng.rdata = v.extractLsb' 0 8)

/-- The five configuration fields are written by the steps of INIT and by nothing else (10_state.md R44). -/
def Obligations.ConfigurationWrittenOnlyByInit : Prop :=
  ∀ s t : State, step s = .next t → t.env ≠ s.env → s.eng.busy = true ∧ s.eng.op = 0x04#8 ∧ s.eng.upc ≤ 4

/-- One step performs at most one access or call, and none is removed from the trace or reordered (40_microops.md R130,
20_memory.md R73); a step of an idle engine performs none. -/
def Obligations.OneAccessPerStep : Prop :=
  ∀ s t : State, step s = .next t →
    (t.trace = s.trace ∨ ∃ e, t.trace = s.trace ++ [e]) ∧ (s.eng.busy = false → t.trace = s.trace)

/-- The payload buffer is written by HOST, by a store or by passing a buffer, and never by the engine (20_memory.md
R62), and the parameters are never written (00_scope.md R7). That HOST passes a buffer as one action, and that the space
then holds exactly that buffer, is the model's reading (log 32, after 30_encoding.md R103). -/
def Obligations.EngineWritesNeitherPayloadNorParameters : Prop :=
  ∀ s t : State, step s = .next t →
    t.cfg = s.cfg ∧ (t.payload ≠ s.payload → s.eng.busy = false ∧
      ((∃ i b, s.input = some (.storeByte i b) ∧ t.payload = s.payload.write i b) ∨
        ∃ buf, s.input = some (.passBuffer buf) ∧ t.payload = Memory.ofBuffer s.cfg.bufcap buf))

/-- INIT makes no access of the register space (45_init.md R190): each of its steps adds nothing but collaborator
entries to the trace and moves no PERIPHERAL. The model's choice (log 33): a collaborator leaves the register block as
it is. -/
def Obligations.InitMakesNoRegisterAccess : Prop :=
  ∀ (s t : State) (speed : Word), latched s.eng = some (.init speed) → s.eng.busy = true →
    exec (.init speed) s = .next t →
    t.periph = s.periph ∧ t.turns = s.turns ∧ t.mock = s.mock ∧
      (t.trace = s.trace ∨ ∃ c r, t.trace = s.trace ++ [.call c r])

/-- Nothing carries over from one command to the next (10_state.md R50): two machines that agree in everything but what
earlier commands left in the engine registers take the same steps, with the same trace, the same status at completion
and the same byte in `RDATA` at the pop. -/
def Obligations.NothingCarriesOver : Prop :=
  ∀ s s' : State, Agree s s' →
    match step s, step s' with
    | .next t, .next t' =>
      Agree t t' ∧ (s.eng.busy = true → t.eng.busy = false → t.eng.status = t'.eng.status) ∧
        (s.eng.busy = true → s.eng.op = 0x03#8 → s.eng.upc = 20 → t.eng.rdata = t'.eng.rdata)
    | .fault r, .fault r' => r = r'
    | .refused r, .refused r' => r = r'
    | _, _ => False

/-- REGWR and a BUFWR of that one byte (43_bufwr.md R176), in every environment, completing or hanging in a busy-wait:
wherever REGWR stands after `n` steps, BUFWR stands one or two steps later with the same trace, `BUSY`, state of the
environment and `RDATA`; if REGWR has completed, BUFWR has completed two steps later with the same status. So the traces,
finite or not, are the same. -/
def Obligations.RegwrIsAOneByteBufwr : Prop :=
  ∀ (s t : State) (addr reg val : Byte) (n : Nat),
    Idle s → s.input = none → s.host = [] → s.payload.read 0 = some val →
    issueAndRun (.regwr addr reg val) n s = .next t →
    ∃ t' m, issueAndRun (.bufwr addr reg 1#32) m s = .next t' ∧ (m = n + 1 ∨ m = n + 2) ∧
      t'.trace = t.trace ∧ t'.eng.busy = t.eng.busy ∧ t'.periph = t.periph ∧ t'.mock = t.mock ∧ t'.turns = t.turns ∧
      t'.freeCtr = t.freeCtr ∧ t'.env = t.env ∧ t'.eng.rdata = t.eng.rdata ∧
      (t.eng.busy = false → m = n + 2 ∧ t'.eng.status = t.eng.status)

/-- A flag that PERIPHERAL raised by the time STOPF is seen, and that stays set as 20_memory.md R71 says, is reported:
the clearing of STOPF does not lose it (40_microops.md R134, 95_test_vectors.md V60). The two stay-set premises are the
environment's, R71. -/
def Obligations.RaisedErrorIsReported : Prop :=
  ∀ (s : State) (i : Instr) (n : Nat) (p q w : Periph) (rest : List Periph) (m : Word),
    Running i n s → ((i.opcode = 0x01#8 ∨ i.opcode = 0x02#8) ∧ n = 17) ∨ (i.opcode = 0x03#8 ∧ n = 24) →
    s.mock = none → s.input = none → s.turns = p :: q :: w :: rest →
    anySet p.intfl0 s.cfg.mStopf = true → m ∈ s.cfg.errMasks → p.intfl0 &&& m ≠ 0#32 →
    FlagsStay p.intfl0 q.intfl0 → FlagsStay (q.intfl0 &&& ~~~s.cfg.mStopf) w.intfl0 →
    ∃ t, stepN 3 s = .next t ∧ t.eng.busy = false ∧ t.eng.status = s.cfg.stCommErr

/-- HOST may use `RDATA` only after a REGRD that completed with `ST_OK` (70_reset_and_hazards.md R249): whatever the
step, HOST may use a byte after it only if the step was the evaluation of a REGRD that completed with `ST_OK`, and the
byte is the popped one, or if the engine was idle and HOST might use that byte before. The step that completes a REGRD
with another status leaves nothing HOST may use. What HOST may read is the model's reading (log 26). -/
def Obligations.RdataTrustedOnlyAfterOk : Prop :=
  (∀ (s t : State) (b : Byte), step s = .next t → hostRdata t = some b →
      (s.eng.busy = true ∧ s.eng.op = 0x03#8 ∧ s.eng.upc = 26 ∧ t.eng.busy = false ∧ t.eng.status = s.cfg.stOk ∧
          s.eng.rdata = b) ∨
        (s.eng.busy = false ∧ hostRdata s = some b)) ∧
    ∀ (s t : State) (addr reg : Byte),
      Running (.regrd addr reg) 26 s → exec (.regrd addr reg) s = .next t →
      hostStatus t = some t.eng.status ∧ (t.eng.status = s.cfg.stOk → hostRdata t = some s.eng.rdata) ∧
        (t.eng.status ≠ s.cfg.stOk → hostRdata t = none) ∧ hostRdata s = none ∧ hostStatus s = none

/-! ### The reference mock -/

/-- The mock's delays (20_memory.md R82, R83): with `c_txf` at `d` and TXFLUSH set the wait at step 6, and with `c_rxf`
at `d` and RXFLUSH set the wait at step 9, takes exactly `d + 1` reads, of which the first `d` show the flush in
progress. -/
def Obligations.MockFlushDelayIsTheReadCount : Prop :=
  ∀ (s : State) (i : Instr) (m : Mock) (d : Nat),
    i.opcode ≠ 0x04#8 → s.input = none → s.mock = some m →
    (Running i 6 s → m.cTxf = some d → s.periph.txctrl &&& s.cfg.mTxflush ≠ 0#32 →
      stepN (d + 1) s = .next { s with
        eng := { s.eng with t := s.periph.txctrl &&& ~~~s.cfg.mTxflush, upc := 7 }
        periph := { s.periph with txctrl := s.periph.txctrl &&& ~~~s.cfg.mTxflush }
        mock := some { m with cTxf := none }
        trace := s.trace ++ List.replicate d (.read .txctrl s.periph.txctrl) ++
          [.read .txctrl (s.periph.txctrl &&& ~~~s.cfg.mTxflush)] }) ∧
      (Running i 9 s → m.cRxf = some d → s.periph.rxctrl &&& s.cfg.mRxflush ≠ 0#32 →
        stepN (d + 1) s = .next { s with
          eng := { s.eng with t := s.periph.rxctrl &&& ~~~s.cfg.mRxflush, upc := 10 }
          periph := { s.periph with rxctrl := s.periph.rxctrl &&& ~~~s.cfg.mRxflush }
          mock := some { m with cRxf := none }
          trace := s.trace ++ List.replicate d (.read .rxctrl s.periph.rxctrl) ++
            [.read .rxctrl (s.periph.rxctrl &&& ~~~s.cfg.mRxflush)] })

/-- The hang in the flush (41_flush.md R154, 95_test_vectors.md V144): a mock whose TX flush never ends keeps the engine
at step 6 for ever, and one whose RX flush never ends at step 9, with `BUSY` = 1, no push and no status. -/
def Obligations.MockFlushThatNeverEndsHangs : Prop :=
  ∀ (s : State) (i : Instr) (m : Mock) (n : Nat),
    i.opcode ≠ 0x04#8 → s.input = none → s.mock = some m →
    (Running i 6 s → m.cTxf = none → s.periph.txctrl &&& s.cfg.mTxflush ≠ 0#32 →
      stepN (n + 1) s = .next { s with
        eng := { s.eng with t := s.periph.txctrl }
        trace := s.trace ++ List.replicate (n + 1) (.read .txctrl s.periph.txctrl) }) ∧
      (Running i 9 s → m.cRxf = none → s.periph.rxctrl &&& s.cfg.mRxflush ≠ 0#32 →
        stepN (n + 1) s = .next { s with
          eng := { s.eng with t := s.periph.rxctrl }
          trace := s.trace ++ List.replicate (n + 1) (.read .rxctrl s.periph.rxctrl) })

/-- The script of the mock (20_memory.md R81): the error flags it injects are words without a bit outside `ERRMASK`, and
every such word can be scripted. -/
def Obligations.MockInjectsErrorFlagsOnly : Prop :=
  ∀ c : Config,
    (∀ e : ErrorFlags, errWord c e &&& ~~~errMask c = 0#32) ∧
      (c.wf = true → ∀ w : Word, w &&& ~~~errMask c = 0#32 → ∃ e : ErrorFlags, errWord c e = w)

/-- No step changes the mock's script, "fixed per vector" (20_memory.md R81), and the bytes still to deliver are the last
of those there were; without a mock none appears. -/
def Obligations.MockKeepsItsScript : Prop :=
  ∀ s t : State, step s = .next t →
    (s.mock = none → t.mock = none) ∧
      ∀ m, s.mock = some m → ∃ m', t.mock = some m' ∧ m'.errinj = m.errinj ∧ m'.dTxf = m.dTxf ∧ m'.dRxf = m.dRxf ∧
        m'.dRst = m.dRst ∧ m'.dRxt = m.dRxt ∧ m'.dStp = m.dStp ∧ m'.retInit = m.retInit ∧ m'.retFreq = m.retFreq ∧
        m'.retTxthr = m.retTxthr ∧ m'.retRxthr = m.retRxthr ∧ ∃ sent, m.rxbytes = sent ++ m'.rxbytes

/-- REGWR against the mock (20_memory.md R81 to R86, 42_regwr.md R161): whatever state the mock is in, if its flush and
STOP delays are numbers the command completes after exactly that many extra reads, has pushed the three bytes in order,
and reports `ST_COMM_ERR` exactly when the script injects an error flag: stale flags do not count (41_flush.md R153). -/
def Obligations.RegwrCompletesOnTheMock : Prop :=
  ∀ (s : State) (m : Mock) (addr reg val : Byte) (dt dr ds : Nat),
    Idle s → s.input = none → s.mock = some m → m.dTxf = some dt → m.dRxf = some dr → m.dStp = some ds →
    ∃ t m', issueAndRun (.regwr addr reg val) (20 + dt + dr + ds) s = .next t ∧ t.eng.busy = false ∧
      t.eng.status = transactionStatus s.cfg (errWord s.cfg m.errinj) ∧ t.mock = some m' ∧
      m'.txlog = m.txlog ++ [addr, reg, val] ∧
      t.trace.length = s.trace.length + 20 + dt + dr + ds ∧ t.eng.rdata = s.eng.rdata

/-- REGRD against the mock (20_memory.md R81 to R87, 44_regrd.md R181, 95_test_vectors.md V40 to V42): with a byte to
deliver, no STOP or byte still pending from before, and every delay a number the command completes, `RDATA` holds the
device's first byte, stale bytes of the RX FIFO and stale flags do not count, and the bytes pushed are the address, the
register address and the address with bit 0 set. The mock never holds `STOP` in `MCTRL` (20_memory.md R84); that is a
premise here. -/
def Obligations.RegrdCompletesOnTheMock : Prop :=
  ∀ (s : State) (m : Mock) (addr reg b : Byte) (bs : List Byte) (dt dr da dx ds : Nat),
    Idle s → s.input = none → s.mock = some m → m.rxbytes = b :: bs → m.cRxt = none → m.cStp = none →
    s.periph.mctrl &&& s.cfg.mStop = 0#32 →
    m.dTxf = some dt → m.dRxf = some dr → m.dRst = some da → m.dRxt = some dx → m.dStp = some ds →
    ∃ t m', issueAndRun (.regrd addr reg) (27 + dt + dr + da + dx + ds) s = .next t ∧ t.eng.busy = false ∧
      t.eng.status = transactionStatus s.cfg (errWord s.cfg m.errinj) ∧ t.eng.rdata = b ∧ t.mock = some m' ∧
      m'.rxbytes = bs ∧ m'.txlog = m.txlog ++ [addr, reg, addr ||| 0x01#8] ∧
      t.trace.length = s.trace.length + 27 + dt + dr + da + dx + ds

/-- INIT against the mock (20_memory.md R88, 45_init.md R191 to R193), whatever its script returns: the first scripted
value that is a failure is the status and only the effects of the calls before it are recorded; with none it completes
with `ST_OK`. Where nothing is scripted, set-frequency returns the speed or, above 0x7FFFFFFF, 0, which is never a
failure, and the others return 0. The frequency itself is open. The model's choice (log 33): the mock and its registers
are untouched. -/
def Obligations.InitCompletesOnTheMock : Prop :=
  ∀ (s : State) (m : Mock) (speed : Word),
    Idle s → s.input = none → s.mock = some m →
    let r0 : Word := m.retInit.getD 0#32
    let r1 : Word := m.retFreq.getD (if speed.toNat ≤ 0x7FFFFFFF then speed else 0#32)
    let r2 : Word := m.retTxthr.getD 0#32
    let r3 : Word := m.retRxthr.getD 0#32
    let c0 : TraceEntry := .call (.peripheralInit s.cfg.base s.cfg.modeMaster s.cfg.initOpts) (some r0)
    let c1 : TraceEntry := .call (.setFrequency s.cfg.base speed) (some r1)
    let c2 : TraceEntry := .call (.setTxThreshold s.cfg.base 1#32) (some r2)
    let c3 : TraceEntry := .call (.setRxThreshold s.cfg.base 1#32) (some r3)
    let ends (k : Nat) (st : Word) (env : Word → PeriphConfig) (tr : List TraceEntry) : Prop :=
      ∃ t hz, issueAndRun (.init speed) (k + 1) s = .next t ∧ t.eng.busy = false ∧ t.eng.status = st ∧
        t.env = env hz ∧ t.mock = some m ∧ t.periph = s.periph ∧ t.trace = s.trace ++ tr
    (m.retFreq = none → 0 ≤ r1.toInt) ∧
      (r0 ≠ s.cfg.stOk → ends 0 r0 (fun _ => s.env) [c0]) ∧
      (r0 = s.cfg.stOk → r1.toInt < 0 → ends 1 r1 (fun _ => { s.env with mode := s.cfg.modeMaster }) [c0, c1]) ∧
      (r0 = s.cfg.stOk → 0 ≤ r1.toInt → r2 ≠ s.cfg.stOk →
        ends 2 r2 (fun hz => { s.env with mode := s.cfg.modeMaster, hz := hz }) [c0, c1, c2]) ∧
      (r0 = s.cfg.stOk → 0 ≤ r1.toInt → r2 = s.cfg.stOk → r3 ≠ s.cfg.stOk →
        ends 3 r3 (fun hz => { s.env with mode := s.cfg.modeMaster, hz := hz, txthr := 1#32 }) [c0, c1, c2, c3]) ∧
      (r0 = s.cfg.stOk → 0 ≤ r1.toInt → r2 = s.cfg.stOk → r3 = s.cfg.stOk →
        ends 5 s.cfg.stOk
          (fun hz => { mode := s.cfg.modeMaster, hz := hz, txthr := 1#32, rxthr := 1#32,
                       gpioDs := s.env.gpioDs ||| s.cfg.gpioDsMask })
          [c0, c1, c2, c3, .call (.gpioDriveStrength s.cfg.gpioDsMask) none])
end

