-- ==== Sys2Proof/Laws/Descriptor.lean ====
section
/-! SUPPORT. The small lemmas of the descriptor: fields of a packed word, a word and its bytes. -/

namespace Sys2Proof

@[simp] theorem fieldOpc_pack (v r a o : Byte) : fieldOpc (packWord0 v r a o) = o := by
  apply BitVec.eq_of_getLsbD_eq
  intro i hi
  simp [fieldOpc, bitField, packWord0, hi]
  grind

@[simp] theorem fieldAddr_pack (v r a o : Byte) : fieldAddr (packWord0 v r a o) = a := by
  apply BitVec.eq_of_getLsbD_eq
  intro i hi
  simp [fieldAddr, bitField, packWord0, hi]
  grind

@[simp] theorem fieldReg_pack (v r a o : Byte) : fieldReg (packWord0 v r a o) = r := by
  apply BitVec.eq_of_getLsbD_eq
  intro i hi
  simp [fieldReg, bitField, packWord0, hi]
  grind

@[simp] theorem fieldVal_pack (v r a o : Byte) : fieldVal (packWord0 v r a o) = v := by
  apply BitVec.eq_of_getLsbD_eq
  intro i hi
  simp [fieldVal, bitField, packWord0, hi]
  grind

/-- A word is its four fields packed. -/
theorem pack_fields (w : Word) : packWord0 (fieldVal w) (fieldReg w) (fieldAddr w) (fieldOpc w) = w := by
  apply BitVec.eq_of_getLsbD_eq
  intro i hi
  simp [fieldVal, fieldReg, fieldAddr, fieldOpc, bitField, packWord0]
  grind

/-- The four bytes of a word give the word back (30_encoding.md R108). -/
theorem takeWord_bytesOfWord (w : Word) (rest : List Byte) :
    takeWord (bytesOfWord w ++ rest) = some (w, rest) := by
  have h : wordOfBytes (bitField w 0 8) (bitField w 8 8) (bitField w 16 8) (bitField w 24 8) = w := pack_fields w
  simp [bytesOfWord, takeWord, h]

/-- Four bytes are the bytes of their word (30_encoding.md R108). -/
theorem bytesOfWord_wordOfBytes (b0 b1 b2 b3 : Byte) : bytesOfWord (wordOfBytes b0 b1 b2 b3) = [b0, b1, b2, b3] := by
  have h0 : bitField (wordOfBytes b0 b1 b2 b3) 0 8 = b0 := fieldOpc_pack b3 b2 b1 b0
  have h1 : bitField (wordOfBytes b0 b1 b2 b3) 8 8 = b1 := fieldAddr_pack b3 b2 b1 b0
  have h2 : bitField (wordOfBytes b0 b1 b2 b3) 16 8 = b2 := fieldReg_pack b3 b2 b1 b0
  have h3 : bitField (wordOfBytes b0 b1 b2 b3) 24 8 = b3 := fieldVal_pack b3 b2 b1 b0
  simp [bytesOfWord, h0, h1, h2, h3]

/-- What `takeWord` answers, whole: the word's bytes stand at the head of the list. -/
theorem takeWord_some {bs : List Byte} {w : Word} {rest : List Byte} (h : takeWord bs = some (w, rest)) :
    bs = bytesOfWord w ++ rest := by
  unfold takeWord at h
  split at h
  · simp only [Option.some.injEq, Prod.mk.injEq] at h
    obtain ⟨rfl, rfl⟩ := h
    simp [bytesOfWord_wordOfBytes]
  · cases h

/-- The operation code stands in bits [7:0] of word 0 (30_encoding.md R102, R105). -/
theorem fieldOpc_word0 (i : Instr) : fieldOpc i.word0 = i.opcode := by
  cases i <;> simp [Instr.word0, Instr.opcode]

end Sys2Proof
end

