-- ==== Sys2Proof/Laws/State.lean ====
section
/-! SUPPORT. One lemma per field per named update of the state, so that no proof unfolds a record update. -/

namespace Sys2Proof.Machine

/-! ### `State.setT` -/

@[simp] theorem setT_cfg (s : State) (v : Word) : (s.setT v).cfg = s.cfg := rfl
@[simp] theorem setT_payload (s : State) (v : Word) : (s.setT v).payload = s.payload := rfl
@[simp] theorem setT_periph (s : State) (v : Word) : (s.setT v).periph = s.periph := rfl
@[simp] theorem setT_env (s : State) (v : Word) : (s.setT v).env = s.env := rfl
@[simp] theorem setT_mock (s : State) (v : Word) : (s.setT v).mock = s.mock := rfl
@[simp] theorem setT_turns (s : State) (v : Word) : (s.setT v).turns = s.turns := rfl
@[simp] theorem setT_calls (s : State) (v : Word) : (s.setT v).calls = s.calls := rfl
@[simp] theorem setT_freeCtr (s : State) (v : Word) : (s.setT v).freeCtr = s.freeCtr := rfl
@[simp] theorem setT_input (s : State) (v : Word) : (s.setT v).input = s.input := rfl
@[simp] theorem setT_host (s : State) (v : Word) : (s.setT v).host = s.host := rfl
@[simp] theorem setT_trace (s : State) (v : Word) : (s.setT v).trace = s.trace := rfl
@[simp] theorem setT_eng_op (s : State) (v : Word) : (s.setT v).eng.op = s.eng.op := rfl
@[simp] theorem setT_eng_addr (s : State) (v : Word) : (s.setT v).eng.addr = s.eng.addr := rfl
@[simp] theorem setT_eng_reg (s : State) (v : Word) : (s.setT v).eng.reg = s.eng.reg := rfl
@[simp] theorem setT_eng_val (s : State) (v : Word) : (s.setT v).eng.val = s.eng.val := rfl
@[simp] theorem setT_eng_len (s : State) (v : Word) : (s.setT v).eng.len = s.eng.len := rfl
@[simp] theorem setT_eng_speed (s : State) (v : Word) : (s.setT v).eng.speed = s.eng.speed := rfl
@[simp] theorem setT_eng_status (s : State) (v : Word) : (s.setT v).eng.status = s.eng.status := rfl
@[simp] theorem setT_eng_rdata (s : State) (v : Word) : (s.setT v).eng.rdata = s.eng.rdata := rfl
@[simp] theorem setT_eng_idx (s : State) (v : Word) : (s.setT v).eng.idx = s.eng.idx := rfl
@[simp] theorem setT_eng_t (s : State) (v : Word) : (s.setT v).eng.t = v := rfl
@[simp] theorem setT_eng_busy (s : State) (v : Word) : (s.setT v).eng.busy = s.eng.busy := rfl
@[simp] theorem setT_eng_upc (s : State) (v : Word) : (s.setT v).eng.upc = s.eng.upc := rfl

/-! ### `State.setRdata` -/

@[simp] theorem setRdata_cfg (s : State) (b : Byte) : (s.setRdata b).cfg = s.cfg := rfl
@[simp] theorem setRdata_payload (s : State) (b : Byte) : (s.setRdata b).payload = s.payload := rfl
@[simp] theorem setRdata_periph (s : State) (b : Byte) : (s.setRdata b).periph = s.periph := rfl
@[simp] theorem setRdata_env (s : State) (b : Byte) : (s.setRdata b).env = s.env := rfl
@[simp] theorem setRdata_mock (s : State) (b : Byte) : (s.setRdata b).mock = s.mock := rfl
@[simp] theorem setRdata_turns (s : State) (b : Byte) : (s.setRdata b).turns = s.turns := rfl
@[simp] theorem setRdata_calls (s : State) (b : Byte) : (s.setRdata b).calls = s.calls := rfl
@[simp] theorem setRdata_freeCtr (s : State) (b : Byte) : (s.setRdata b).freeCtr = s.freeCtr := rfl
@[simp] theorem setRdata_input (s : State) (b : Byte) : (s.setRdata b).input = s.input := rfl
@[simp] theorem setRdata_host (s : State) (b : Byte) : (s.setRdata b).host = s.host := rfl
@[simp] theorem setRdata_trace (s : State) (b : Byte) : (s.setRdata b).trace = s.trace := rfl
@[simp] theorem setRdata_eng_op (s : State) (b : Byte) : (s.setRdata b).eng.op = s.eng.op := rfl
@[simp] theorem setRdata_eng_addr (s : State) (b : Byte) : (s.setRdata b).eng.addr = s.eng.addr := rfl
@[simp] theorem setRdata_eng_reg (s : State) (b : Byte) : (s.setRdata b).eng.reg = s.eng.reg := rfl
@[simp] theorem setRdata_eng_val (s : State) (b : Byte) : (s.setRdata b).eng.val = s.eng.val := rfl
@[simp] theorem setRdata_eng_len (s : State) (b : Byte) : (s.setRdata b).eng.len = s.eng.len := rfl
@[simp] theorem setRdata_eng_speed (s : State) (b : Byte) : (s.setRdata b).eng.speed = s.eng.speed := rfl
@[simp] theorem setRdata_eng_status (s : State) (b : Byte) : (s.setRdata b).eng.status = s.eng.status := rfl
@[simp] theorem setRdata_eng_rdata (s : State) (b : Byte) : (s.setRdata b).eng.rdata = b := rfl
@[simp] theorem setRdata_eng_idx (s : State) (b : Byte) : (s.setRdata b).eng.idx = s.eng.idx := rfl
@[simp] theorem setRdata_eng_t (s : State) (b : Byte) : (s.setRdata b).eng.t = s.eng.t := rfl
@[simp] theorem setRdata_eng_busy (s : State) (b : Byte) : (s.setRdata b).eng.busy = s.eng.busy := rfl
@[simp] theorem setRdata_eng_upc (s : State) (b : Byte) : (s.setRdata b).eng.upc = s.eng.upc := rfl

/-! ### `State.setIdx` -/

@[simp] theorem setIdx_cfg (s : State) (v : Word) : (s.setIdx v).cfg = s.cfg := rfl
@[simp] theorem setIdx_payload (s : State) (v : Word) : (s.setIdx v).payload = s.payload := rfl
@[simp] theorem setIdx_periph (s : State) (v : Word) : (s.setIdx v).periph = s.periph := rfl
@[simp] theorem setIdx_env (s : State) (v : Word) : (s.setIdx v).env = s.env := rfl
@[simp] theorem setIdx_mock (s : State) (v : Word) : (s.setIdx v).mock = s.mock := rfl
@[simp] theorem setIdx_turns (s : State) (v : Word) : (s.setIdx v).turns = s.turns := rfl
@[simp] theorem setIdx_calls (s : State) (v : Word) : (s.setIdx v).calls = s.calls := rfl
@[simp] theorem setIdx_freeCtr (s : State) (v : Word) : (s.setIdx v).freeCtr = s.freeCtr := rfl
@[simp] theorem setIdx_input (s : State) (v : Word) : (s.setIdx v).input = s.input := rfl
@[simp] theorem setIdx_host (s : State) (v : Word) : (s.setIdx v).host = s.host := rfl
@[simp] theorem setIdx_trace (s : State) (v : Word) : (s.setIdx v).trace = s.trace := rfl
@[simp] theorem setIdx_eng_op (s : State) (v : Word) : (s.setIdx v).eng.op = s.eng.op := rfl
@[simp] theorem setIdx_eng_addr (s : State) (v : Word) : (s.setIdx v).eng.addr = s.eng.addr := rfl
@[simp] theorem setIdx_eng_reg (s : State) (v : Word) : (s.setIdx v).eng.reg = s.eng.reg := rfl
@[simp] theorem setIdx_eng_val (s : State) (v : Word) : (s.setIdx v).eng.val = s.eng.val := rfl
@[simp] theorem setIdx_eng_len (s : State) (v : Word) : (s.setIdx v).eng.len = s.eng.len := rfl
@[simp] theorem setIdx_eng_speed (s : State) (v : Word) : (s.setIdx v).eng.speed = s.eng.speed := rfl
@[simp] theorem setIdx_eng_status (s : State) (v : Word) : (s.setIdx v).eng.status = s.eng.status := rfl
@[simp] theorem setIdx_eng_rdata (s : State) (v : Word) : (s.setIdx v).eng.rdata = s.eng.rdata := rfl
@[simp] theorem setIdx_eng_idx (s : State) (v : Word) : (s.setIdx v).eng.idx = v := rfl
@[simp] theorem setIdx_eng_t (s : State) (v : Word) : (s.setIdx v).eng.t = s.eng.t := rfl
@[simp] theorem setIdx_eng_busy (s : State) (v : Word) : (s.setIdx v).eng.busy = s.eng.busy := rfl
@[simp] theorem setIdx_eng_upc (s : State) (v : Word) : (s.setIdx v).eng.upc = s.eng.upc := rfl

/-! ### `State.setUpc` -/

@[simp] theorem setUpc_cfg (s : State) (n : Nat) : (s.setUpc n).cfg = s.cfg := rfl
@[simp] theorem setUpc_payload (s : State) (n : Nat) : (s.setUpc n).payload = s.payload := rfl
@[simp] theorem setUpc_periph (s : State) (n : Nat) : (s.setUpc n).periph = s.periph := rfl
@[simp] theorem setUpc_env (s : State) (n : Nat) : (s.setUpc n).env = s.env := rfl
@[simp] theorem setUpc_mock (s : State) (n : Nat) : (s.setUpc n).mock = s.mock := rfl
@[simp] theorem setUpc_turns (s : State) (n : Nat) : (s.setUpc n).turns = s.turns := rfl
@[simp] theorem setUpc_calls (s : State) (n : Nat) : (s.setUpc n).calls = s.calls := rfl
@[simp] theorem setUpc_freeCtr (s : State) (n : Nat) : (s.setUpc n).freeCtr = s.freeCtr := rfl
@[simp] theorem setUpc_input (s : State) (n : Nat) : (s.setUpc n).input = s.input := rfl
@[simp] theorem setUpc_host (s : State) (n : Nat) : (s.setUpc n).host = s.host := rfl
@[simp] theorem setUpc_trace (s : State) (n : Nat) : (s.setUpc n).trace = s.trace := rfl
@[simp] theorem setUpc_eng_op (s : State) (n : Nat) : (s.setUpc n).eng.op = s.eng.op := rfl
@[simp] theorem setUpc_eng_addr (s : State) (n : Nat) : (s.setUpc n).eng.addr = s.eng.addr := rfl
@[simp] theorem setUpc_eng_reg (s : State) (n : Nat) : (s.setUpc n).eng.reg = s.eng.reg := rfl
@[simp] theorem setUpc_eng_val (s : State) (n : Nat) : (s.setUpc n).eng.val = s.eng.val := rfl
@[simp] theorem setUpc_eng_len (s : State) (n : Nat) : (s.setUpc n).eng.len = s.eng.len := rfl
@[simp] theorem setUpc_eng_speed (s : State) (n : Nat) : (s.setUpc n).eng.speed = s.eng.speed := rfl
@[simp] theorem setUpc_eng_status (s : State) (n : Nat) : (s.setUpc n).eng.status = s.eng.status := rfl
@[simp] theorem setUpc_eng_rdata (s : State) (n : Nat) : (s.setUpc n).eng.rdata = s.eng.rdata := rfl
@[simp] theorem setUpc_eng_idx (s : State) (n : Nat) : (s.setUpc n).eng.idx = s.eng.idx := rfl
@[simp] theorem setUpc_eng_t (s : State) (n : Nat) : (s.setUpc n).eng.t = s.eng.t := rfl
@[simp] theorem setUpc_eng_busy (s : State) (n : Nat) : (s.setUpc n).eng.busy = s.eng.busy := rfl
@[simp] theorem setUpc_eng_upc (s : State) (n : Nat) : (s.setUpc n).eng.upc = n := rfl

/-! ### `State.advance` -/

@[simp] theorem advance_cfg (s : State) : (s.advance).cfg = s.cfg := rfl
@[simp] theorem advance_payload (s : State) : (s.advance).payload = s.payload := rfl
@[simp] theorem advance_periph (s : State) : (s.advance).periph = s.periph := rfl
@[simp] theorem advance_env (s : State) : (s.advance).env = s.env := rfl
@[simp] theorem advance_mock (s : State) : (s.advance).mock = s.mock := rfl
@[simp] theorem advance_turns (s : State) : (s.advance).turns = s.turns := rfl
@[simp] theorem advance_calls (s : State) : (s.advance).calls = s.calls := rfl
@[simp] theorem advance_freeCtr (s : State) : (s.advance).freeCtr = s.freeCtr := rfl
@[simp] theorem advance_input (s : State) : (s.advance).input = s.input := rfl
@[simp] theorem advance_host (s : State) : (s.advance).host = s.host := rfl
@[simp] theorem advance_trace (s : State) : (s.advance).trace = s.trace := rfl
@[simp] theorem advance_eng_op (s : State) : (s.advance).eng.op = s.eng.op := rfl
@[simp] theorem advance_eng_addr (s : State) : (s.advance).eng.addr = s.eng.addr := rfl
@[simp] theorem advance_eng_reg (s : State) : (s.advance).eng.reg = s.eng.reg := rfl
@[simp] theorem advance_eng_val (s : State) : (s.advance).eng.val = s.eng.val := rfl
@[simp] theorem advance_eng_len (s : State) : (s.advance).eng.len = s.eng.len := rfl
@[simp] theorem advance_eng_speed (s : State) : (s.advance).eng.speed = s.eng.speed := rfl
@[simp] theorem advance_eng_status (s : State) : (s.advance).eng.status = s.eng.status := rfl
@[simp] theorem advance_eng_rdata (s : State) : (s.advance).eng.rdata = s.eng.rdata := rfl
@[simp] theorem advance_eng_idx (s : State) : (s.advance).eng.idx = s.eng.idx := rfl
@[simp] theorem advance_eng_t (s : State) : (s.advance).eng.t = s.eng.t := rfl
@[simp] theorem advance_eng_busy (s : State) : (s.advance).eng.busy = s.eng.busy := rfl
@[simp] theorem advance_eng_upc (s : State) : (s.advance).eng.upc = s.eng.upc + 1 := rfl

/-! ### `State.complete` -/

@[simp] theorem complete_cfg (s : State) (st : Word) : (s.complete st).cfg = s.cfg := rfl
@[simp] theorem complete_payload (s : State) (st : Word) : (s.complete st).payload = s.payload := rfl
@[simp] theorem complete_periph (s : State) (st : Word) : (s.complete st).periph = s.periph := rfl
@[simp] theorem complete_env (s : State) (st : Word) : (s.complete st).env = s.env := rfl
@[simp] theorem complete_mock (s : State) (st : Word) : (s.complete st).mock = s.mock := rfl
@[simp] theorem complete_turns (s : State) (st : Word) : (s.complete st).turns = s.turns := rfl
@[simp] theorem complete_calls (s : State) (st : Word) : (s.complete st).calls = s.calls := rfl
@[simp] theorem complete_freeCtr (s : State) (st : Word) : (s.complete st).freeCtr = s.freeCtr := rfl
@[simp] theorem complete_input (s : State) (st : Word) : (s.complete st).input = s.input := rfl
@[simp] theorem complete_host (s : State) (st : Word) : (s.complete st).host = s.host := rfl
@[simp] theorem complete_trace (s : State) (st : Word) : (s.complete st).trace = s.trace := rfl
@[simp] theorem complete_eng_op (s : State) (st : Word) : (s.complete st).eng.op = s.eng.op := rfl
@[simp] theorem complete_eng_addr (s : State) (st : Word) : (s.complete st).eng.addr = s.eng.addr := rfl
@[simp] theorem complete_eng_reg (s : State) (st : Word) : (s.complete st).eng.reg = s.eng.reg := rfl
@[simp] theorem complete_eng_val (s : State) (st : Word) : (s.complete st).eng.val = s.eng.val := rfl
@[simp] theorem complete_eng_len (s : State) (st : Word) : (s.complete st).eng.len = s.eng.len := rfl
@[simp] theorem complete_eng_speed (s : State) (st : Word) : (s.complete st).eng.speed = s.eng.speed := rfl
@[simp] theorem complete_eng_status (s : State) (st : Word) : (s.complete st).eng.status = st := rfl
@[simp] theorem complete_eng_rdata (s : State) (st : Word) : (s.complete st).eng.rdata = s.eng.rdata := rfl
@[simp] theorem complete_eng_idx (s : State) (st : Word) : (s.complete st).eng.idx = s.eng.idx := rfl
@[simp] theorem complete_eng_t (s : State) (st : Word) : (s.complete st).eng.t = s.eng.t := rfl
@[simp] theorem complete_eng_busy (s : State) (st : Word) : (s.complete st).eng.busy = false := rfl
@[simp] theorem complete_eng_upc (s : State) (st : Word) : (s.complete st).eng.upc = s.eng.upc := rfl

/-! ### `State.log` -/

@[simp] theorem log_cfg (s : State) (e : TraceEntry) : (s.log e).cfg = s.cfg := rfl
@[simp] theorem log_payload (s : State) (e : TraceEntry) : (s.log e).payload = s.payload := rfl
@[simp] theorem log_periph (s : State) (e : TraceEntry) : (s.log e).periph = s.periph := rfl
@[simp] theorem log_env (s : State) (e : TraceEntry) : (s.log e).env = s.env := rfl
@[simp] theorem log_mock (s : State) (e : TraceEntry) : (s.log e).mock = s.mock := rfl
@[simp] theorem log_turns (s : State) (e : TraceEntry) : (s.log e).turns = s.turns := rfl
@[simp] theorem log_calls (s : State) (e : TraceEntry) : (s.log e).calls = s.calls := rfl
@[simp] theorem log_freeCtr (s : State) (e : TraceEntry) : (s.log e).freeCtr = s.freeCtr := rfl
@[simp] theorem log_input (s : State) (e : TraceEntry) : (s.log e).input = s.input := rfl
@[simp] theorem log_host (s : State) (e : TraceEntry) : (s.log e).host = s.host := rfl
@[simp] theorem log_trace (s : State) (e : TraceEntry) : (s.log e).trace = s.trace ++ [e] := rfl
@[simp] theorem log_eng (s : State) (e : TraceEntry) : (s.log e).eng = s.eng := rfl

/-! ### `State.setEnv` -/

@[simp] theorem setEnv_cfg (s : State) (env : PeriphConfig) : (s.setEnv env).cfg = s.cfg := rfl
@[simp] theorem setEnv_payload (s : State) (env : PeriphConfig) : (s.setEnv env).payload = s.payload := rfl
@[simp] theorem setEnv_periph (s : State) (env : PeriphConfig) : (s.setEnv env).periph = s.periph := rfl
@[simp] theorem setEnv_env (s : State) (env : PeriphConfig) : (s.setEnv env).env = env := rfl
@[simp] theorem setEnv_mock (s : State) (env : PeriphConfig) : (s.setEnv env).mock = s.mock := rfl
@[simp] theorem setEnv_turns (s : State) (env : PeriphConfig) : (s.setEnv env).turns = s.turns := rfl
@[simp] theorem setEnv_calls (s : State) (env : PeriphConfig) : (s.setEnv env).calls = s.calls := rfl
@[simp] theorem setEnv_freeCtr (s : State) (env : PeriphConfig) : (s.setEnv env).freeCtr = s.freeCtr := rfl
@[simp] theorem setEnv_input (s : State) (env : PeriphConfig) : (s.setEnv env).input = s.input := rfl
@[simp] theorem setEnv_host (s : State) (env : PeriphConfig) : (s.setEnv env).host = s.host := rfl
@[simp] theorem setEnv_trace (s : State) (env : PeriphConfig) : (s.setEnv env).trace = s.trace := rfl
@[simp] theorem setEnv_eng (s : State) (env : PeriphConfig) : (s.setEnv env).eng = s.eng := rfl

/-! ### `State.issue` -/

@[simp] theorem issue_cfg (s : State) (i : Instr) : (s.issue i).cfg = s.cfg := rfl
@[simp] theorem issue_payload (s : State) (i : Instr) : (s.issue i).payload = s.payload := rfl
@[simp] theorem issue_periph (s : State) (i : Instr) : (s.issue i).periph = s.periph := rfl
@[simp] theorem issue_env (s : State) (i : Instr) : (s.issue i).env = s.env := rfl
@[simp] theorem issue_mock (s : State) (i : Instr) : (s.issue i).mock = s.mock := rfl
@[simp] theorem issue_turns (s : State) (i : Instr) : (s.issue i).turns = s.turns := rfl
@[simp] theorem issue_calls (s : State) (i : Instr) : (s.issue i).calls = s.calls := rfl
@[simp] theorem issue_freeCtr (s : State) (i : Instr) : (s.issue i).freeCtr = s.freeCtr := rfl
@[simp] theorem issue_input (s : State) (i : Instr) : (s.issue i).input = s.input := rfl
@[simp] theorem issue_host (s : State) (i : Instr) : (s.issue i).host = s.host := rfl
@[simp] theorem issue_trace (s : State) (i : Instr) : (s.issue i).trace = s.trace := rfl
@[simp] theorem issue_eng_busy (s : State) (i : Instr) : (s.issue i).eng.busy = true := rfl
@[simp] theorem issue_eng_upc (s : State) (i : Instr) : (s.issue i).eng.upc = firstStep i := rfl
@[simp] theorem issue_eng_status (s : State) (i : Instr) : (s.issue i).eng.status = s.eng.status := by cases i <;> rfl
@[simp] theorem issue_eng_rdata (s : State) (i : Instr) : (s.issue i).eng.rdata = s.eng.rdata := by cases i <;> rfl
@[simp] theorem issue_eng_idx (s : State) (i : Instr) : (s.issue i).eng.idx = s.eng.idx := by cases i <;> rfl
@[simp] theorem issue_eng_t (s : State) (i : Instr) : (s.issue i).eng.t = s.eng.t := by cases i <;> rfl
@[simp] theorem issue_eng_op (s : State) (i : Instr) : (s.issue i).eng.op = i.opcode := by cases i <;> rfl

/-- After issue the command registers hold the command (30_encoding.md R109). -/
@[simp] theorem latched_issue (s : State) (i : Instr) : latched (s.issue i).eng = some i := by
  cases i <;> rfl

end Sys2Proof.Machine
end

