-- ==== Sys2Proof/Laws/Space.lean ====
section
/-! SUPPORT. The spec lemmas of the register space and of the payload buffer space: what an access answers, that a
well-formed configuration gives every register its own address, that every operation keeps the canonical form. -/

namespace Sys2Proof.Machine

/-! ### Control -/

@[simp] theorem andThen_next {α β : Type} (a : α) (f : α → Host.Outcome β Fault Refusal) :
    andThen (.next a) f = f a := rfl

@[simp] theorem andThen_fault {α β : Type} (r : Fault) (f : α → Host.Outcome β Fault Refusal) :
    andThen (.fault r) f = .fault r := rfl

@[simp] theorem andThen_refused {α β : Type} (r : Refusal) (f : α → Host.Outcome β Fault Refusal) :
    andThen (.refused r) f = .refused r := rfl

/-- A sequence answers a next state only through a next state of its first part. -/
theorem andThen_eq_next {α β : Type} {o : Host.Outcome α Fault Refusal} {f : α → Host.Outcome β Fault Refusal} {b : β} :
    andThen o f = .next b ↔ ∃ a, o = .next a ∧ f a = .next b := by
  cases o <;> simp [andThen]

/-! ### Addresses -/

theorem wf_offsetsDistinct {c : Config} (h : c.wf = true) : c.offsetsDistinct = true := by
  simp only [Config.wf, Bool.and_eq_true] at h
  exact h.1.1.1.1.1.1.2

/-- Under a well-formed configuration the register at a register's address is that register (20_memory.md R78). -/
theorem regAt_regAddr {c : Config} (h : c.wf = true) (r : Reg) : regAt c (regAddr c r) = some r := by
  have hd := wf_offsetsDistinct h
  simp only [Config.offsetsDistinct, Reg.all, List.map, Config.offset, pairwiseDistinct, List.contains_cons,
    List.contains_nil, Bool.or_false, Bool.not_or, Bool.and_true, Bool.and_eq_true, Bool.not_eq_true',
    beq_eq_false_iff_ne] at hd
  obtain ⟨⟨h1, h2, h3, h4, h5, h6⟩, ⟨k1, k2, k3, k4, k5⟩, ⟨l1, l2, l3, l4⟩, ⟨m1, m2, m3⟩, ⟨n1, n2⟩, o1, -⟩ := hd
  cases r <;> simp [regAt, regAddr, Reg.all, List.find?, Config.offset, *] <;> grind

/-! ### Accesses -/

/-- A read under the unconstrained environment always answers (20_memory.md R72). -/
theorem memRead_free {s : State} (hw : s.cfg.wf = true) (hm : s.mock = none) (r : Reg) :
    memRead (regAddr s.cfg r) s = .next (freeRead r s) := by
  simp [memRead, regAt_regAddr hw, hm]

/-- A read under the mock answers what the mock answers (20_memory.md R83 to R87). -/
theorem memRead_mock {s : State} (hw : s.cfg.wf = true) {m : Mock} (hm : s.mock = some m) (r : Reg)
    {v : Word} {p : Periph} {m' : Mock} (h : mockRead s.cfg r s.periph m = some (v, p, m')) :
    memRead (regAddr s.cfg r) s = .next (v, { s with periph := p, mock := some m' }.log (.read r v)) := by
  simp [memRead, regAt_regAddr hw, hm, h]

/-- The mock answers every read but one of `FIFO` with nothing received (20_memory.md R85). -/
theorem mockRead_isSome (c : Config) (r : Reg) (p : Periph) (m : Mock) (h : r = .fifo → p.rxFifo ≠ []) :
    (mockRead c r p m).isSome = true := by
  cases r <;> simp [mockRead, mockReadFifo]
  cases hp : p.rxFifo with
  | nil => exact absurd hp (h rfl)
  | cons a l => simp

/-- A write under the unconstrained environment always answers. -/
theorem memWrite_free {s : State} (hw : s.cfg.wf = true) (hm : s.mock = none) (r : Reg) (v : Word) :
    memWrite (regAddr s.cfg r) v s = .next (freeWrite r v s) := by
  simp [memWrite, regAt_regAddr hw, hm]

/-- A write under the mock always answers (20_memory.md R83 to R87). -/
theorem memWrite_mock {s : State} (hw : s.cfg.wf = true) {m : Mock} (hm : s.mock = some m) (r : Reg) (v : Word) :
    memWrite (regAddr s.cfg r) v s =
      .next ({ s with periph := (mockWrite s.cfg r v s.periph m).1,
                      mock := some (mockWrite s.cfg r v s.periph m).2 }.log (.write r v)) := by
  simp [memWrite, regAt_regAddr hw, hm]

/-- What PERIPHERAL's move leaves alone: everything but the register block, its queue and the counter. -/
structure SameButPeriph (s t : State) : Prop where
  cfg : t.cfg = s.cfg
  eng : t.eng = s.eng
  payload : t.payload = s.payload
  env : t.env = s.env
  calls : t.calls = s.calls
  input : t.input = s.input
  host : t.host = s.host

theorem envTurn_same (s : State) : SameButPeriph s (envTurn s) := by
  unfold envTurn
  split
  · constructor <;> rfl
  · split <;> constructor <;> rfl

@[simp] theorem envTurn_trace (s : State) : (envTurn s).trace = s.trace := by
  unfold envTurn
  split
  · rfl
  · split <;> rfl

@[simp] theorem envTurn_mock (s : State) : (envTurn s).mock = s.mock := by
  unfold envTurn
  split
  · rfl
  · split <;> rfl

/-- The queue's head is where PERIPHERAL moves. -/
theorem envTurn_queued {s : State} (hm : s.mock = none) {p : Periph} {ps : List Periph} (ht : s.turns = p :: ps) :
    envTurn s = { s with periph := p, turns := ps } := by
  simp [envTurn, hm, ht]

/-- All a read can do: it answers with one more trace entry, and touches nothing but PERIPHERAL's side. -/
theorem memRead_next {r : Reg} {s : State} {x : Word × State} (hw : s.cfg.wf = true)
    (h : memRead (regAddr s.cfg r) s = .next x) :
    SameButPeriph s x.2 ∧ x.2.trace = s.trace ++ [.read r x.1] := by
  simp only [memRead, regAt_regAddr hw] at h
  split at h
  · simp only [Host.Outcome.next.injEq] at h
    subst h
    have e := envTurn_same s
    refine ⟨⟨e.cfg, e.eng, e.payload, e.env, e.calls, e.input, e.host⟩, ?_⟩
    simp [freeRead]
  · split at h
    · simp only [Host.Outcome.next.injEq] at h
      subst h
      exact ⟨⟨rfl, rfl, rfl, rfl, rfl, rfl, rfl⟩, rfl⟩
    · cases h

/-- All a write can do. -/
theorem memWrite_next {r : Reg} {v : Word} {s t : State} (hw : s.cfg.wf = true)
    (h : memWrite (regAddr s.cfg r) v s = .next t) :
    SameButPeriph s t ∧ t.trace = s.trace ++ [.write r v] := by
  simp only [memWrite, regAt_regAddr hw] at h
  split at h
  · simp only [Host.Outcome.next.injEq] at h
    subst h
    have e := envTurn_same s
    refine ⟨⟨e.cfg, e.eng, e.payload, e.env, e.calls, e.input, e.host⟩, ?_⟩
    simp [freeWrite]
  · simp only [Host.Outcome.next.injEq] at h
    subst h
    exact ⟨⟨rfl, rfl, rfl, rfl, rfl, rfl, rfl⟩, rfl⟩

/-- All a reading micro-step can do, in terms of the state its rest starts from. -/
theorem loadT_next {r : Reg} {s t : State} {k : State → State} (hw : s.cfg.wf = true) (h : loadT r s k = .next t) :
    ∃ v s1, SameButPeriph s s1 ∧ s1.trace = s.trace ++ [.read r v] ∧ t = k (s1.setT v) := by
  simp only [loadT, andThen_eq_next, Host.Outcome.next.injEq] at h
  obtain ⟨x, hx, rfl⟩ := h
  exact ⟨x.1, x.2, (memRead_next hw hx).1, (memRead_next hw hx).2, rfl⟩

/-- All a writing micro-step can do. -/
theorem store_next {r : Reg} {v : Word} {s t : State} {k : State → State} (hw : s.cfg.wf = true)
    (h : store r v s k = .next t) :
    ∃ s1, SameButPeriph s s1 ∧ s1.trace = s.trace ++ [.write r v] ∧ t = k s1 := by
  simp only [store, andThen_eq_next, Host.Outcome.next.injEq] at h
  obtain ⟨s1, hx, rfl⟩ := h
  exact ⟨s1, (memWrite_next hw hx).1, (memWrite_next hw hx).2, rfl⟩

theorem loadT_free {s : State} (hw : s.cfg.wf = true) (hm : s.mock = none) (r : Reg) (k : State → State) :
    loadT r s k = .next (k ((freeRead r s).2.setT (freeRead r s).1)) := by
  simp [loadT, memRead_free hw hm]

theorem store_free {s : State} (hw : s.cfg.wf = true) (hm : s.mock = none) (r : Reg) (v : Word) (k : State → State) :
    store r v s k = .next (k (freeWrite r v s)) := by
  simp [store, memWrite_free hw hm]

/-! ### The payload buffer space -/

/-- A read after a write of the same index gives the byte written. -/
@[simp] theorem Memory.read_write_same (m : Memory) (i : Nat) (b : Byte) : (m.write i b).read i = some b := by
  induction m with
  | nil => simp [Memory.write, Memory.read]
  | cons x rest ih =>
    obtain ⟨j, y⟩ := x
    simp only [Memory.write]
    split
    · simp [Memory.read]
    · split
      · simp [Memory.read]
      · rename_i h1 h2
        simp [Memory.read, Ne.symm h2, ih]

/-- A write leaves every other index alone. -/
theorem Memory.read_write_other (m : Memory) {i j : Nat} (b : Byte) (h : j ≠ i) :
    (m.write i b).read j = m.read j := by
  induction m with
  | nil => simp [Memory.write, Memory.read, Ne.symm h]
  | cons x rest ih =>
    obtain ⟨k, y⟩ := x
    simp only [Memory.write]
    split
    · simp [Memory.read, Ne.symm h]
    · split
      · rename_i h1 h2
        subst h2
        simp [Memory.read, Ne.symm h]
      · simp only [Memory.read]
        split
        · rfl
        · exact ih

/-- The indices a write leaves listed. -/
theorem Memory.mem_write {m : Memory} {i : Nat} {b : Byte} {x : Host.Cell} (h : x ∈ m.write i b) :
    x = (i, b) ∨ x ∈ m := by
  induction m with
  | nil => simpa [Memory.write] using h
  | cons y rest ih =>
    obtain ⟨j, z⟩ := y
    simp only [Memory.write] at h
    split at h
    · simpa using h
    · split at h
      · rcases List.mem_cons.1 h with h | h
        · exact .inl h
        · exact .inr (List.mem_cons_of_mem _ h)
      · rcases List.mem_cons.1 h with h | h
        · exact .inr (by simp [h])
        · rcases ih h with h | h
          · exact .inl h
          · exact .inr (List.mem_cons_of_mem _ h)

/-- A write keeps the canonical form. -/
theorem Memory.write_wf {m : Memory} (h : m.wf = true) (i : Nat) (b : Byte) : (m.write i b).wf = true := by
  simp only [Memory.wf, decide_eq_true_eq] at h ⊢
  induction m with
  | nil => simp [Memory.write]
  | cons x rest ih =>
    obtain ⟨j, y⟩ := x
    obtain ⟨h1, h2⟩ := List.pairwise_cons.1 h
    simp only [Memory.write]
    split
    · rename_i hij
      refine List.pairwise_cons.2 ⟨?_, h⟩
      intro a ha
      rcases List.mem_cons.1 ha with rfl | ha
      · exact hij
      · exact hij.trans (h1 a ha)
    · split
      · rename_i hij
        subst hij
        exact List.pairwise_cons.2 ⟨h1, h2⟩
      · rename_i hlt hne
        refine List.pairwise_cons.2 ⟨?_, ih h2⟩
        intro a ha
        rcases Memory.mem_write ha with rfl | ha
        · show j < i
          omega
        · exact h1 a ha

/-- What the space that holds a list of bytes reads as. -/
theorem Memory.read_ofBytesFrom (l : List Byte) (i j : Nat) :
    (Memory.ofBytesFrom i l).read j = if i ≤ j then l[j - i]? else none := by
  induction l generalizing i with
  | nil => simp [Memory.ofBytesFrom, Memory.read]
  | cons b rest ih =>
    simp only [Memory.ofBytesFrom, Memory.read, ih]
    rcases Nat.lt_trichotomy i j with h | rfl | h
    · obtain ⟨k, rfl⟩ : ∃ k, j = i + (k + 1) := ⟨j - i - 1, by omega⟩
      rw [if_neg (by omega), if_pos (by omega), if_pos (by omega), Nat.add_sub_cancel_left,
        show i + (k + 1) - (i + 1) = k by omega, List.getElem?_cons_succ]
    · simp
    · rw [if_neg (by omega), if_neg (by omega), if_neg (by omega)]

/-- A read of a passed buffer: its bytes, as far as it and the space reach. -/
theorem Memory.read_ofBuffer (cap : Nat) (buf : List Byte) (j : Nat) :
    (Memory.ofBuffer cap buf).read j = if j < cap then buf[j]? else none := by
  simp [Memory.ofBuffer, Memory.read_ofBytesFrom, List.getElem?_take]

/-- The indices of a list of bytes. -/
theorem Memory.mem_ofBytesFrom {l : List Byte} {i : Nat} {x : Host.Cell} (h : x ∈ Memory.ofBytesFrom i l) :
    i ≤ x.1 ∧ x.1 < i + l.length := by
  induction l generalizing i with
  | nil => cases h
  | cons b rest ih =>
    rcases List.mem_cons.1 h with rfl | h
    · exact ⟨Nat.le_refl _, by simp⟩
    · obtain ⟨h1, h2⟩ := ih h
      simp only [List.length_cons]
      omega

/-- A passed buffer lists indices of the space only. -/
theorem Memory.mem_ofBuffer {cap : Nat} {buf : List Byte} {x : Host.Cell} (h : x ∈ Memory.ofBuffer cap buf) :
    x.1 < cap := by
  have h2 := (Memory.mem_ofBytesFrom h).2
  rw [List.length_take] at h2
  omega

theorem Memory.ofBytesFrom_wf (l : List Byte) (i : Nat) : (Memory.ofBytesFrom i l).wf = true := by
  simp only [Memory.wf, decide_eq_true_eq]
  induction l generalizing i with
  | nil => exact .nil
  | cons b rest ih =>
    exact .cons (fun x hx => show i < x.1 from (Memory.mem_ofBytesFrom hx).1) (ih (i + 1))

/-- A passed buffer is in the canonical form. -/
theorem Memory.ofBuffer_wf (cap : Nat) (buf : List Byte) : (Memory.ofBuffer cap buf).wf = true :=
  Memory.ofBytesFrom_wf _ _

/-- A script without error flags injects nothing. -/
@[simp] theorem errWord_none (c : Config) : errWord c ErrorFlags.none = 0#32 := by
  simp [errWord, flagBit, ErrorFlags.none]

end Sys2Proof.Machine
end

