-- ==== Sys2Proof/Laws/Micro.lean ====
section
/-! SUPPORT. What a command, a micro-step and a run can do, said once: the laws that the statements' proofs cite. -/

namespace Sys2Proof.Machine

/-! ### Commands -/

/-- The step table of a command. -/
def rowOf : Instr → Nat → Option MicroStep
  | .regwr _ _ _ => regwrRow
  | .bufwr _ _ _ => bufwrRow
  | .regrd _ _ => regrdRow
  | .init _ => initRow

theorem exec_eq (i : Instr) (s : State) : exec i s = runCommand i (rowOf i) s := by
  cases i <;> rfl

/-- On an idle engine a command is issued (30_encoding.md R109). -/
theorem exec_idle {i : Instr} {s : State} (h : Idle s) : exec i s = .next (s.issue i) := by
  simp [exec_eq, runCommand, h.1, h.2]

/-- The running command runs the row its step number names. -/
theorem exec_running {i : Instr} {n : Nat} {s : State} (h : Running i n s) : exec i s = runRow (rowOf i) s := by
  obtain ⟨h1, h2, h3, h4⟩ := h
  simp [exec_eq, runCommand, h1, h2, h3]

/-- The running command's micro-step, by its row. -/
theorem exec_row {i : Instr} {n : Nat} {s : State} {m : MicroStep} (h : Running i n s) (hr : rowOf i n = some m) :
    exec i s = microStep m s := by
  obtain ⟨h1, h2, h3, h4⟩ := h
  rw [exec_running ⟨h1, h2, h3, h4⟩, runRow, h4, hr]

/-- A next state of a command comes from its issue on an idle engine or from a row of its own table. -/
theorem exec_next {i : Instr} {s t : State} (h : exec i s = .next t) :
    s.cfg.wf = true ∧
      ((s.eng.busy = false ∧ t = s.issue i) ∨
        (s.eng.busy = true ∧ latched s.eng = some i ∧
          ∃ m, rowOf i s.eng.upc = some m ∧ microStep m s = .next t)) := by
  rw [exec_eq, runCommand] at h
  split at h
  · rename_i hw
    refine ⟨hw, ?_⟩
    split at h
    · rename_i hb
      split at h
      · rename_i hl
        refine .inr ⟨hb, hl, ?_⟩
        rw [runRow] at h
        split at h
        · exact ⟨_, ‹_›, h⟩
        · cases h
      · cases h
    · rename_i hb
      simp only [Host.Outcome.next.injEq] at h
      exact .inl ⟨by simpa using hb, h.symm⟩
  · cases h

/-- The command an engine holds, by its operation code. -/
theorem latched_opcode {e : Engine} {i : Instr} (h : latched e = some i) : e.op = i.opcode := by
  unfold latched at h
  split at h
  · simp only [Option.some.injEq] at h; subst h; assumption
  · split at h
    · simp only [Option.some.injEq] at h; subst h; assumption
    · split at h
      · simp only [Option.some.injEq] at h; subst h; assumption
      · split at h
        · simp only [Option.some.injEq] at h; subst h; assumption
        · cases h

/-- The operands of the latched command are the command registers. -/
theorem latched_regwr {e : Engine} {a r v : Byte} (h : latched e = some (.regwr a r v)) :
    e.addr = a ∧ e.reg = r ∧ e.val = v := by
  have ho := latched_opcode h
  simp only [Instr.opcode] at ho
  simpa [latched, ho] using h

theorem latched_bufwr {e : Engine} {a r : Byte} {l : Word} (h : latched e = some (.bufwr a r l)) :
    e.addr = a ∧ e.reg = r ∧ e.len = l := by
  have ho := latched_opcode h
  simp only [Instr.opcode] at ho
  simpa [latched, ho] using h

theorem latched_regrd {e : Engine} {a r : Byte} (h : latched e = some (.regrd a r)) : e.addr = a ∧ e.reg = r := by
  have ho := latched_opcode h
  simp only [Instr.opcode] at ho
  simpa [latched, ho] using h

theorem latched_init {e : Engine} {v : Word} (h : latched e = some (.init v)) : e.speed = v := by
  have ho := latched_opcode h
  simp only [Instr.opcode] at ho
  simpa [latched, ho] using h

/-- The latched command depends on the six command registers only. -/
theorem latched_congr {e e' : Engine} (h1 : e'.op = e.op) (h2 : e'.addr = e.addr) (h3 : e'.reg = e.reg)
    (h4 : e'.val = e.val) (h5 : e'.len = e.len) (h6 : e'.speed = e.speed) : latched e' = latched e := by
  simp [latched, h1, h2, h3, h4, h5, h6]

/-! ### Micro-steps -/

/-- What every micro-step leaves alone. -/
structure MicroFrame (s t : State) : Prop where
  cfg : t.cfg = s.cfg
  payload : t.payload = s.payload
  input : t.input = s.input
  host : t.host = s.host
  op : t.eng.op = s.eng.op
  addr : t.eng.addr = s.eng.addr
  reg : t.eng.reg = s.eng.reg
  val : t.eng.val = s.eng.val
  len : t.eng.len = s.eng.len
  speed : t.eng.speed = s.eng.speed
  trace : t.trace = s.trace ∨ ∃ e, t.trace = s.trace ++ [e]

theorem MicroFrame.latched {s t : State} (h : MicroFrame s t) : latched t.eng = latched s.eng :=
  latched_congr h.op h.addr h.reg h.val h.len h.speed

/-- The six command registers agree. -/
abbrev SameCommand (e e' : Engine) : Prop :=
  e'.op = e.op ∧ e'.addr = e.addr ∧ e'.reg = e.reg ∧ e'.val = e.val ∧ e'.len = e.len ∧ e'.speed = e.speed

/-- A state reached over an access and then register updates that spare the command registers. -/
theorem MicroFrame.of_access {s s1 t : State} (h : SameButPeriph s s1) {e : TraceEntry}
    (ht : s1.trace = s.trace ++ [e]) (h1 : t.cfg = s1.cfg) (h2 : t.payload = s1.payload) (h3 : t.input = s1.input)
    (h4 : t.host = s1.host) (h5 : SameCommand s1.eng t.eng) (h6 : t.trace = s1.trace) :
    MicroFrame s t := by
  obtain ⟨a, b, c, d, f, g⟩ := h5
  rw [h.eng] at a b c d f g
  exact ⟨h1.trans h.cfg, h2.trans h.payload, h3.trans h.input, h4.trans h.host, a, b, c, d, f, g,
    .inr ⟨e, by rw [h6, ht]⟩⟩

/-- The state after a collaborator answered is the old one but for the queue and the counter. -/
theorem callReply_same (k : Collaborator) (s : State) :
    (callReply k s).2 = { s with calls := (callReply k s).2.calls, freeCtr := (callReply k s).2.freeCtr } := by
  unfold callReply freeReply
  split
  · split <;> rfl
  · rfl

/-- What a micro-step can do to the state outside PERIPHERAL and the collaborators. -/
theorem microStep_frame {m : MicroStep} {s t : State} (hw : s.cfg.wf = true) (h : microStep m s = .next t) :
    MicroFrame s t := by
  have load : ∀ {r : Reg} {k : State → State}, loadT r s k = .next t →
      (∀ s1 : State, (k s1).cfg = s1.cfg ∧ (k s1).payload = s1.payload ∧ (k s1).input = s1.input ∧
        (k s1).host = s1.host ∧ (k s1).trace = s1.trace ∧
        SameCommand s1.eng (k s1).eng) → MicroFrame s t := by
    intro r k h hk
    obtain ⟨v, s1, e, ht, rfl⟩ := loadT_next hw h
    obtain ⟨a, b, c, d, f, g⟩ := hk (s1.setT v)
    exact MicroFrame.of_access e ht a b c d g f
  have st : ∀ {r : Reg} {v : Word} {k : State → State}, store r v s k = .next t →
      (∀ s1 : State, (k s1).cfg = s1.cfg ∧ (k s1).payload = s1.payload ∧ (k s1).input = s1.input ∧
        (k s1).host = s1.host ∧ (k s1).trace = s1.trace ∧
        SameCommand s1.eng (k s1).eng) → MicroFrame s t := by
    intro r v k h hk
    obtain ⟨s1, e, ht, rfl⟩ := store_next hw h
    obtain ⟨a, b, c, d, f, g⟩ := hk s1
    exact MicroFrame.of_access e ht a b c d g f
  cases m with
  | wbkRead r => exact load h fun _ => ⟨rfl, rfl, rfl, rfl, rfl, rfl, rfl, rfl, rfl, rfl, rfl⟩
  | wbkWrite r => exact st h fun _ => ⟨rfl, rfl, rfl, rfl, rfl, rfl, rfl, rfl, rfl, rfl, rfl⟩
  | setbRead r => exact load h fun _ => ⟨rfl, rfl, rfl, rfl, rfl, rfl, rfl, rfl, rfl, rfl, rfl⟩
  | setbWrite r b => exact st h fun _ => ⟨rfl, rfl, rfl, rfl, rfl, rfl, rfl, rfl, rfl, rfl, rfl⟩
  | push o => exact st h fun _ => ⟨rfl, rfl, rfl, rfl, rfl, rfl, rfl, rfl, rfl, rfl, rfl⟩
  | wr r v => exact st h fun _ => ⟨rfl, rfl, rfl, rfl, rfl, rfl, rfl, rfl, rfl, rfl, rfl⟩
  | w1c r b => exact st h fun _ => ⟨rfl, rfl, rfl, rfl, rfl, rfl, rfl, rfl, rfl, rfl, rfl⟩
  | poll1 r b =>
    simp only [microStep, pollSet] at h
    exact load h fun s1 => by split <;> exact ⟨rfl, rfl, rfl, rfl, rfl, rfl, rfl, rfl, rfl, rfl, rfl⟩
  | poll0 r b =>
    simp only [microStep, pollClear] at h
    exact load h fun s1 => by split <;> exact ⟨rfl, rfl, rfl, rfl, rfl, rfl, rfl, rfl, rfl, rfl, rfl⟩
  | pop =>
    simp only [microStep, pop] at h
    exact load h fun _ => ⟨rfl, rfl, rfl, rfl, rfl, rfl, rfl, rfl, rfl, rfl, rfl⟩
  | eval =>
    simp only [microStep, evalErrors] at h
    exact load h fun _ => ⟨rfl, rfl, rfl, rfl, rfl, rfl, rfl, rfl, rfl, rfl, rfl⟩
  | chklen =>
    simp only [microStep, chklen] at h
    split at h
    · cases h; exact ⟨rfl, rfl, rfl, rfl, rfl, rfl, rfl, rfl, rfl, rfl, .inl rfl⟩
    · split at h
      · cases h
      · cases h; exact ⟨rfl, rfl, rfl, rfl, rfl, rfl, rfl, rfl, rfl, rfl, .inl rfl⟩
  | payload =>
    simp only [microStep, payloadStep] at h
    split at h
    · obtain ⟨b, -, h⟩ := andThen_eq_next.1 h
      exact st h fun _ => ⟨rfl, rfl, rfl, rfl, rfl, rfl, rfl, rfl, rfl, rfl, rfl⟩
    · cases h; exact ⟨rfl, rfl, rfl, rfl, rfl, rfl, rfl, rfl, rfl, rfl, .inl rfl⟩
  | call k =>
    have e := callReply_same k s
    simp only [microStep, callStep] at h
    rw [e] at h
    split at h <;> cases h <;>
      exact ⟨rfl, rfl, rfl, rfl, rfl, rfl, rfl, rfl, rfl, rfl, .inr ⟨_, rfl⟩⟩
  | gpiods => cases h; exact ⟨rfl, rfl, rfl, rfl, rfl, rfl, rfl, rfl, rfl, rfl, .inr ⟨_, rfl⟩⟩
  | finish => cases h; exact ⟨rfl, rfl, rfl, rfl, rfl, rfl, rfl, rfl, rfl, rfl, .inl rfl⟩

/-! ### Steps and runs -/

/-- While `BUSY` is 1 and nothing arrives, a step runs the latched command. -/
theorem step_running {i : Instr} {n : Nat} {s : State} (h : Running i n s) (hi : s.input = none) :
    step s = exec i s := by
  obtain ⟨-, h2, h3, -⟩ := h
  simp [step, turn, hi, h2, resume, h3]

/-- All a step can do: an idle engine is issued a command, receives a store or a buffer, is left alone or hears from HOST; a busy one
runs the row of its latched command. -/
theorem step_next {s t : State} (h : step s = .next t) :
    (s.eng.busy = false ∧ s.cfg.wf = true ∧ (∃ bytes, s.input = some (.present bytes)) ∧
        ∃ i, t = ({ s with input := none } : State).issue i) ∨
      (s.eng.busy = false ∧ ∃ i b, s.input = some (.storeByte i b) ∧ i < s.cfg.bufcap ∧
        t = { s with input := none, payload := s.payload.write i b }) ∨
      (s.eng.busy = false ∧ ∃ buf, s.input = some (.passBuffer buf) ∧
        t = { s with input := none, payload := Memory.ofBuffer s.cfg.bufcap buf }) ∨
      (s.eng.busy = false ∧ s.input = some .foreignAccess ∧ t = { s with input := none }) ∨
      (s.eng.busy = false ∧ s.input = none ∧ t = hostTurn s) ∨
      (s.eng.busy = true ∧ s.input = none ∧ s.cfg.wf = true ∧
        ∃ i m, latched s.eng = some i ∧ rowOf i s.eng.upc = some m ∧ microStep m s = .next t) := by
  simp only [step, turn] at h
  split at h
  · rename_i a ha
    cases a with
    | present bytes =>
      simp only [hostAct, present] at h
      split at h
      · cases h
      · rename_i hb
        split at h
        · rename_i i rest hd
          obtain ⟨hw, ⟨-, ht⟩ | ⟨hb', -⟩⟩ := exec_next h
          · exact .inl ⟨by simpa using hb, hw, ⟨bytes, ha⟩, i, ht⟩
          · exact absurd hb' hb
        · cases h
    | storeByte i b =>
      simp only [hostAct] at h
      split at h
      · cases h
      · rename_i hb
        split at h
        · cases h
          exact .inr (.inl ⟨by simpa using hb, i, b, ha, ‹_›, rfl⟩)
        · cases h
    | passBuffer buf =>
      simp only [hostAct] at h
      split at h
      · cases h
      · rename_i hb
        cases h
        exact .inr (.inr (.inl ⟨by simpa using hb, buf, ha, rfl⟩))
    | foreignAccess =>
      simp only [hostAct] at h
      split at h
      · cases h
      · rename_i hb
        cases h
        exact .inr (.inr (.inr (.inl ⟨by simpa using hb, ha, rfl⟩)))
  · rename_i ha
    split at h
    · rename_i hb
      simp only [resume] at h
      split at h
      · rename_i i hl
        obtain ⟨hw, ⟨hb', -⟩ | ⟨-, -, m, hm, hs⟩⟩ := exec_next h
        · rw [hb'] at hb; cases hb
        · exact .inr (.inr (.inr (.inr (.inr ⟨hb, ha, hw, i, m, hl, hm, hs⟩))))
      · cases h
    · rename_i hb
      cases h
      exact .inr (.inr (.inr (.inr (.inl ⟨by simpa using hb, ha, rfl⟩))))

@[simp] theorem stepN_zero (s : State) : stepN 0 s = .next s := rfl

/-- One step and then the rest of a run. -/
theorem stepN_succ (n : Nat) (s : State) : stepN (n + 1) s = andThen (step s) (stepN n) := rfl

theorem andThen_assoc {α β γ : Type} (o : Host.Outcome α Fault Refusal) (f : α → Host.Outcome β Fault Refusal)
    (g : β → Host.Outcome γ Fault Refusal) : andThen (andThen o f) g = andThen o fun a => andThen (f a) g := by
  cases o <;> rfl

/-- A run is a run and then the rest. -/
theorem stepN_add (n k : Nat) (s : State) : stepN (n + k) s = andThen (stepN n s) (stepN k) := by
  induction n generalizing s with
  | zero => simp
  | succ n ih =>
    rw [Nat.succ_add, stepN_succ, stepN_succ, andThen_assoc]
    exact congrArg (andThen (step s)) (funext ih)

/-- A run through a running command's row. -/
theorem stepN_row {i : Instr} {n : Nat} {s : State} {m : MicroStep} (k : Nat) (h : Running i n s)
    (hi : s.input = none) (hr : rowOf i n = some m) : stepN (k + 1) s = andThen (microStep m s) (stepN k) := by
  rw [stepN_succ, step_running h hi, exec_row h hr]

end Sys2Proof.Machine
end

