-- ==== Sys2Proof/Laws/PerInstr.lean ====
section
/-! SUPPORT. Statements about each command as syntax. -/

namespace Sys2Proof.Laws.Descriptor

/-- The descriptor of a command is as many words long as its row of the opcode map says, and word 0 carries the row's
operation code in bits [7:0] (30_encoding.md R101, R102, R105). -/
def Statement (i : Instr) : Prop :=
  (encode i).length = 4 * (encodeWords i).length ∧ fieldOpc i.word0 = i.opcode ∧
    opcodeTable[i.opcode.toNat - 1]?.map OpcodeRow.words = some (encodeWords i).length

theorem regwr (addr reg val : Byte) : Statement (.regwr addr reg val) :=
  ⟨rfl, fieldOpc_word0 _, rfl⟩

theorem bufwr (addr reg : Byte) (len : Word) : Statement (.bufwr addr reg len) :=
  ⟨rfl, fieldOpc_word0 _, rfl⟩

theorem regrd (addr reg : Byte) : Statement (.regrd addr reg) :=
  ⟨rfl, fieldOpc_word0 _, rfl⟩

theorem init (speed : Word) : Statement (.init speed) :=
  ⟨rfl, fieldOpc_word0 _, rfl⟩

end Sys2Proof.Laws.Descriptor
end

