-- ==== Sys2Proof/Tests/Slice0.lean ====
section
/-! SUPPORT. Tests: ill-formed configurations, descriptors written out from the spec, single steps against the vectors of
95_test_vectors.md, and for every obligation with hypotheses a state that meets them. -/

namespace Sys2Proof.Tests

open Sys2Proof Sys2Proof.Machine

/-! One theorem after the other: a thread for each costs more memory than it saves time. -/

set_option Elab.async false

/-! ### Builders -/

/-- The default configuration with values for the two symbols, so that states compare. -/
def cfg0 : Config := { Config.default with modeMaster := 1#32, initOpts := 2#32 }

/-- An idle engine with command registers left over. -/
def idle : State := { State.reset with cfg := cfg0 }

/-- An engine that runs `i` and stands at step `n`. -/
def running (i : Instr) (n : Nat) : State :=
  { idle with eng := { latch i Engine.reset with busy := true, upc := n } }

/-- `s` with the given coming moves of PERIPHERAL. -/
def withTurns (s : State) (ps : List Periph) : State := { s with turns := ps }

/-- A register block whose `INTFL0` reads `v`. -/
def flags (v : Word) : Periph := { Periph.zero with intfl0 := v }

/-- A register block whose `MCTRL` reads `v`. -/
def mctrl (v : Word) : Periph := { Periph.zero with mctrl := v }

/-- The state a step answers, if it answers one. -/
def after (o : Host.Outcome State Fault Refusal) : Option State :=
  match o with
  | .next t => some t
  | _ => none

/-- The reason a step refuses for, if it refuses. -/
def refusal (o : Host.Outcome State Fault Refusal) : Option Refusal :=
  match o with
  | .refused r => some r
  | _ => none

/-- A step that answers a state answers one. -/
theorem exists_next {o : Host.Outcome State Fault Refusal} {p : State → Bool} (h : (after o).any p = true) :
    ∃ t, o = .next t ∧ p t = true := by
  cases o with
  | next t => exact ⟨t, rfl, by simpa [after] using h⟩
  | fault _ => simp [after] at h
  | refused _ => simp [after] at h

def w0 : Instr := .regwr 0x50#8 0x10#8 0xAB#8
def b0 : Instr := .bufwr 0x50#8 0x10#8 3#32
def r0 : Instr := .regrd 0x50#8 0x20#8
def i0 : Instr := .init 400000#32

/-! ### WellFormed: one ill-formed configuration for each check -/

theorem test_default_configuration_wf : Config.default.wf = true := by decide +kernel

theorem test_wf_refuses_shallow_fifo : Config.wf { Config.default with fifoDepth := 2 } = false := by decide +kernel

theorem test_wf_refuses_small_buffer :
    Config.wf { Config.default with bufcap := 5 } = false ∧ Config.wf { Config.default with bufcap := 6 } = true := by
  decide +kernel

theorem test_wf_refuses_equal_offsets : Config.wf { Config.default with offFifo := 0x30 } = false := by decide +kernel

theorem test_wf_refuses_unaligned_offset : Config.wf { Config.default with offFifo := 0x2E } = false := by decide +kernel

theorem test_wf_refuses_mctrl_masks :
    Config.wf { Config.default with mStop := 0x1#32 } = false ∧ Config.wf { Config.default with mStart := 0x9#32 } = false := by
  decide +kernel

theorem test_wf_refuses_flush_masks :
    Config.wf { Config.default with mTxflush := 0#32 } = false ∧
      Config.wf { Config.default with mRxflush := 0x81#32 } = false := by
  decide +kernel

theorem test_wf_refuses_flag_masks :
    Config.wf { Config.default with mStopf := 0x100#32 } = false ∧ Config.wf { Config.default with mDnr := 0x800#32 } = false ∧
      Config.wf { Config.default with mRxthrf := 0x40#32 } = false := by
  decide +kernel

theorem test_wf_refuses_equal_statuses : Config.wf { Config.default with stCommErr := 0#32 } = false := by decide +kernel

theorem test_wf_refuses_gpio_mask :
    Config.wf { Config.default with gpioDsMask := 0x100#32 } = false ∧
      Config.wf { Config.default with gpioDsMask := 0x700#32 } = false := by
  decide +kernel

/-! ### Decode and encode: V1 to V16 -/

theorem test_decode_regwr :
    decodeTableWord 32 0xAB105001 = some (.regwr 0x50#8 0x10#8 0xAB#8) ∧
      decodeTableWord 32 0xFFFFFF01 = some (.regwr 0xFF#8 0xFF#8 0xFF#8) ∧
      decodeTableWord 32 0x00000001 = some (.regwr 0#8 0#8 0#8) := by decide +kernel

theorem test_decode_bufwr :
    decodeTableWord 64 0x0000000300105002 = some (.bufwr 0x50#8 0x10#8 3#32) ∧
      decodeTableWord 64 0xFFFFFFFF0000A002 = some (.bufwr 0xA0#8 0x00#8 0xFFFFFFFF#32) := by decide +kernel

theorem test_decode_regrd : decodeTableWord 32 0x00205003 = some (.regrd 0x50#8 0x20#8) := by decide +kernel

theorem test_decode_init :
    decodeTableWord 64 0x00061A8000000004 = some (.init 400000#32) ∧
      decodeTableWord 64 0xFFFFFFFF00000004 = some (.init 4294967295#32) ∧
      decodeTableWord 64 0x0000000000000004 = some (.init 0#32) := by decide +kernel

theorem test_decode_refuses_reserved :
    ∀ w ∈ [0x00000000, 0x00000005, 0xAB1050FF, 0x01105002, 0xFF205003, 0x00000104, 0x00100004, 0x80000004],
      decodeTableWord 64 w = none := by decide +kernel

theorem test_decode_refuses_short :
    decode [0x01#8, 0x50#8, 0x10#8] = .error .short ∧
      decode [0x02#8, 0x50#8, 0x10#8, 0x00#8, 0x03#8, 0x00#8, 0x00#8] = .error .short := ⟨rfl, rfl⟩

theorem test_encode_words :
    encodeWords w0 = [0xAB105001#32] ∧ encodeWords b0 = [0x00105002#32, 0x00000003#32] ∧
      encodeWords r0 = [0x00205003#32] ∧ encodeWords i0 = [0x00000004#32, 0x00061A80#32] := by decide +kernel

theorem test_encode_bytes_little_endian :
    encode i0 = [0x04#8, 0x00#8, 0x00#8, 0x00#8, 0x80#8, 0x1A#8, 0x06#8, 0x00#8] := by decide +kernel

/-! ### Single steps -/

/-- V20, entry 13, and V102. -/
theorem test_regwr_steps :
    ((after (exec w0 (withTurns (running w0 10) [Periph.zero]))).map State.trace = some [.write .fifo 0x50#32]) ∧
      ((after (stepN 2 (withTurns (running w0 15) [mctrl 0x1#32, mctrl 0x1#32]))).map State.trace =
        some [.read .mctrl 0x1#32, .write .mctrl 0x5#32]) := by decide +kernel

/-- V118 to V124. -/
theorem test_regwr_status :
    [0x0#32, 0xFF#32, 0xFFFF80FF#32, 0x100#32, 0x4000#32, 0x7F00#32, 0x8000#32].map (fun v =>
        (after (exec w0 (withTurns (running w0 19) [flags v]))).map fun t => t.eng.status) =
      [some 0#32, some 0#32, some 0#32, some (-9), some (-9), some (-9), some 0#32] := by decide +kernel

/-- V125 to V130. -/
theorem test_bufwr_length :
    [6, 7, 0, 0x7FFFFFFF].map (fun n => (after (exec (.bufwr 0x50#8 0x10#8 n) (running (.bufwr 0x50#8 0x10#8 n) 31))).map
        fun t => (t.eng.busy, t.eng.status, t.eng.upc)) =
      [some (true, 0#32, 0), some (false, -3, 31), some (true, 0#32, 0), some (false, -3, 31)] ∧
      [0xFFFFFFFF#32, 0x80000000#32].map (fun n =>
          refusal (exec (.bufwr 0x50#8 0x10#8 n) (running (.bufwr 0x50#8 0x10#8 n) 31))) =
        [some .negativeLength, some .negativeLength] := by decide +kernel

/-- V27: the second payload byte. -/
theorem test_bufwr_payload :
    (after (exec b0 (withTurns
        { running b0 14 with
          payload := [(0, 0x11#8), (1, 0x22#8), (2, 0x33#8)], eng := { (running b0 14).eng with idx := 1#32 } }
        [Periph.zero]))).map (fun t => (t.trace, t.eng.idx, t.eng.upc)) =
      some ([.write .fifo 0x22#32], 2#32, 14) := by decide +kernel

/-- V34 after a call that left bytes behind: the index that the passed buffer does not reach is refused. -/
theorem test_bufwr_short_buffer :
    (after (step { idle with
        payload := [(0, 1#8), (1, 2#8), (2, 3#8)], input := some (.passBuffer [0x11#8, 0x22#8]) })).map State.payload =
      some [(0, 0x11#8), (1, 0x22#8)] ∧
      refusal (exec b0 { running b0 14 with
        payload := [(0, 0x11#8), (1, 0x22#8)], eng := { (running b0 14).eng with idx := 2#32 } }) =
        some .unwrittenBufferByte := by decide +kernel

/-- V136 to V138. -/
theorem test_regrd_read_address :
    [0x50#8, 0xFF#8, 0x00#8].map (fun a =>
        (after (exec (.regrd a 0x20#8) (withTurns (running (.regrd a 0x20#8) 18) [Periph.zero]))).map State.trace) =
      [some [.write .fifo 0x51#32], some [.write .fifo 0xFF#32], some [.write .fifo 0x01#32]] := by decide +kernel

/-- V114: bits [31:8] are discarded. -/
theorem test_regrd_pop :
    (after (exec r0 (withTurns (running r0 20) [{ Periph.zero with fifoOpen := 0xFFFFFF00#32, rxFifo := [0x7F#8] }]))).map
        (fun t => (t.trace, t.eng.rdata)) = some ([.read .fifo 0xFFFFFF7F#32], 0x7F#8) := by decide +kernel

/-- V131 to V133. -/
theorem test_init_frequency :
    [400000#32, 0#32, -3].map (fun v =>
        (after (exec i0 { running i0 1 with calls := [{ ret := v, field := 5#32 }] })).map fun t =>
          (t.eng.busy, t.eng.upc, t.eng.status)) =
      [some (true, 2, 0#32), some (true, 2, 0#32), some (false, 1, -3)] := by decide +kernel

/-- V135. -/
theorem test_init_gpio :
    [0x1#32, 0x300#32].map (fun v =>
        (after (exec i0 { running i0 4 with env := { PeriphConfig.zero with gpioDs := v } })).map fun t => t.env.gpioDs) =
      [some 0x301#32, some 0x300#32] := by decide +kernel

/-! ### Witnesses: a state that meets the hypotheses of each obligation -/

theorem witness_opcode_map :
    ([0x00000001#32, 0xFFFFFF01#32].all fun w => w &&& 0x000000FF#32 == 0x00000001#32) ∧
      ([0x00000002#32, 0x00FFFF02#32].all fun w => w &&& 0xFF0000FF#32 == 0x00000002#32) ∧
      ([0x00000003#32, 0x00FFFF03#32].all fun w => w &&& 0xFF0000FF#32 == 0x00000003#32) ∧
      ([0x00000000#32, 0x00000005#32, 0x01000002#32, 0x80FFFF03#32, 0x00000104#32].all fun w =>
        w &&& 0x000000FF#32 != 0x00000001#32 && w &&& 0xFF0000FF#32 != 0x00000002#32 &&
          w &&& 0xFF0000FF#32 != 0x00000003#32 && w != 0x00000004#32) := by decide +kernel

theorem witness_illegal_descriptor :
    [0x00000000#32, 0x00000005#32, 0x01000002#32, 0x00000104#32].all (fun w =>
      ({ idle with input := some (.present (bytesOfWord w)) } : State).eng.busy == false &&
        opcodeTable.all fun r => w &&& r.mask != r.pattern) = true := by decide +kernel

theorem witness_decode_of_encode : ∀ i ∈ [w0, b0, r0, i0], i.wf = true := by decide +kernel

theorem witness_encode_of_decode :
    decode [0x02#8, 0x50#8, 0x10#8, 0x00#8, 0x03#8, 0x00#8, 0x00#8, 0x00#8, 0xEE#8] = .ok (b0, [0xEE#8]) := rfl

theorem witness_idle : Idle idle ∧ Idle State.reset := by decide +kernel

theorem witness_issue :
    (∀ i ∈ [w0, b0, r0, i0], idle.eng.busy = false ∧ i.wf = true ∧
      ({ idle with input := some (.present (encode i ++ [])) } : State).input = some (.present (encode i ++ []))) ∧
      (running w0 0).eng.busy = true := by decide +kernel

theorem witness_step_runs_decoded :
    (decode (encode w0) = .ok (w0, []) ∧ decode (encode b0) = .ok (b0, []) ∧ decode (encode r0) = .ok (r0, []) ∧
        decode (encode i0) = .ok (i0, [])) ∧
      ∀ i ∈ [w0, b0, r0, i0], (running i 0).eng.busy = true ∧ (running i 0).input = none ∧
        latched (running i 0).eng = some i := ⟨⟨rfl, rfl, rfl, rfl⟩, by decide +kernel⟩

theorem witness_fetch_word : decodeTableWord 64 0x0000000300105002 = some b0 := by decide +kernel

theorem witness_idle_waits :
    idle.eng.busy = false ∧ idle.input = none ∧ idle.host = [] ∧
      ({ idle with host := [.storeByte 0 0x11#8] } : State).host = [.storeByte 0 0x11#8] := by decide +kernel

/-- A buffer longer than the space, as in P3, one as long, and none: what each leaves to read. -/
theorem witness_pass_buffer :
    idle.eng.busy = false ∧ (running r0 3).eng.busy = true ∧
      (after (step { idle with payload := [(5, 9#8)], input := some (.passBuffer [1#8, 2#8, 3#8, 4#8, 5#8, 6#8, 7#8]) })).map
          (fun t => (t.payload.read 5, t.payload.read 6)) = some (some 6#8, none) ∧
      (after (step { idle with payload := [(5, 9#8)], input := some (.passBuffer []) })).map State.payload =
        some [] := by decide +kernel

/-- A buffer one byte short of the largest admitted length, and an empty one of length 1. -/
theorem witness_short_buffer :
    let s : State := { idle with input := some (.passBuffer [1#8, 2#8, 3#8, 4#8, 5#8]) }
    let u : State := { running (.bufwr 0x50#8 0x10#8 6#32) 14 with
      payload := Memory.ofBuffer 6 [1#8, 2#8, 3#8, 4#8, 5#8]
      eng := { (running (.bufwr 0x50#8 0x10#8 6#32) 14).eng with idx := 5#32 } }
    Idle s ∧ (5 : Int) < (6#32 : Word).toInt ∧ (6#32 : Word).toInt ≤ (s.cfg.fifoDepth : Int) - 2 ∧
      (0 : Int) < (1#32 : Word).toInt ∧ (after (step s)).map State.payload = some u.payload ∧ u.cfg = s.cfg ∧
      Running (.bufwr 0x50#8 0x10#8 6#32) 14 u ∧ u.eng.idx.toNat = 5 := by decide +kernel

/-- The clauses at the boundary of `BUFCAP`, 6 by default. -/
theorem witness_host_stores : idle.eng.busy = false ∧ 5 < idle.cfg.bufcap ∧ idle.cfg.bufcap ≤ 6 ∧
    (running r0 3).eng.busy = true := by decide +kernel

theorem witness_shallow_fifo : ({ idle with cfg := { cfg0 with fifoDepth := 2 } } : State).cfg.fifoDepth < 3 := by
  decide +kernel

theorem witness_regwr_steps : ∀ n ∈ List.range 20, Running w0 n (running w0 n) := by decide +kernel

theorem witness_bufwr_steps : ∀ n ∈ 31 :: List.range 20, Running b0 n (running b0 n) := by decide +kernel

theorem witness_regrd_steps : ∀ n ∈ List.range 27, Running r0 n (running r0 n) := by decide +kernel

theorem witness_init_steps : ∀ n ∈ List.range 6, Running i0 n (running i0 n) := by decide +kernel

/-- For every statement over the unconstrained environment: any coming moves can stand in its queue. -/
theorem witness_turns (i : Instr) (n : Nat) (ps : List Periph) :
    (withTurns (running i n) ps).turns = ps ∧ (withTurns (running i n) ps).mock = none ∧
      (withTurns (running i n) ps).input = none ∧ (withTurns (running i n) ps).cfg = cfg0 := ⟨rfl, rfl, rfl, rfl⟩

theorem witness_read_fifo :
    Periph.zero.rxFifo = [] ∧ ({ Periph.zero with rxFifo := [0x7F#8] } : Periph).rxFifo = 0x7F#8 :: [] := by
  decide +kernel

theorem witness_no_register : ∀ a ∈ [0, 4, 0x0C, 0x2D, 0x34], ∀ r ∈ Reg.all, cfg0.base + cfg0.offset r ≠ a := by
  decide +kernel

/-- Each wait of the three tables with a value that keeps waiting, an error flag set beside it. -/
theorem witness_busy_wait :
    (∀ i ∈ [w0, b0, r0], i.opcode ≠ 0x04#8) ∧ w0.opcode = 0x01#8 ∧ b0.opcode = 0x02#8 ∧ r0.opcode = 0x03#8 ∧
      0x80#32 &&& cfg0.mTxflush ≠ 0#32 ∧ 0x80#32 &&& cfg0.mRxflush ≠ 0#32 ∧ 0x2#32 &&& cfg0.mRestart ≠ 0#32 ∧
      0x7F10#32 &&& cfg0.mStopf = 0#32 ∧ 0x7F40#32 &&& cfg0.mRxthrf = 0#32 := by decide +kernel

/-- `EVAL`: each error bit alone, and all the other bits without one. -/
theorem witness_eval :
    (cfg0.errMasks.all fun e => cfg0.errMasks.any fun m => e &&& m != 0#32) ∧
      (cfg0.errMasks.all fun m => 0xFFFF80FF#32 &&& m == 0#32) := by decide +kernel

/-- `CHKLEN` at the boundaries, `FIFO_DEPTH` = 8. -/
theorem witness_chklen :
    (cfg0.fifoDepth : Int) - 2 < (7#32 : Word).toInt ∧ (0xFFFFFFFF#32 : Word).toInt < 0 ∧
      0 ≤ (0#32 : Word).toInt ∧ (6#32 : Word).toInt ≤ (cfg0.fifoDepth : Int) - 2 ∧
      Running (.bufwr 0#8 0#8 7#32) 31 (running (.bufwr 0#8 0#8 7#32) 31) ∧
      Running (.bufwr 0#8 0#8 0xFFFFFFFF#32) 31 (running (.bufwr 0#8 0#8 0xFFFFFFFF#32) 31) ∧
      Running (.bufwr 0#8 0#8 6#32) 31 (running (.bufwr 0#8 0#8 6#32) 31) := by
  decide +kernel

/-- The payload step with `IDX` = 5 of 6, written and not, and with nothing left. -/
theorem witness_payload :
    let i : Instr := .bufwr 0x50#8 0x10#8 6#32
    let at5 : State := { running i 14 with eng := { (running i 14).eng with idx := 5#32 }, payload := [(5, 0x66#8)] }
    Running i 14 at5 ∧ (at5.eng.idx.toNat : Int) < (6#32 : Word).toInt ∧ at5.eng.idx.toNat < at5.cfg.bufcap ∧
      at5.payload.read at5.eng.idx.toNat = some 0x66#8 ∧
      ({ at5 with payload := [] } : State).payload.read 5 = none ∧
      (6#32 : Word).toInt ≤ (({ at5 with eng := { at5.eng with idx := 6#32 } } : State).eng.idx.toNat : Int) := by
  decide +kernel

/-- Replies at the boundary of each collaborator's failure predicate. -/
theorem witness_calls :
    (7#32 : Word) ≠ cfg0.stOk ∧ (0#32 : Word) = cfg0.stOk ∧ (0x80000000#32 : Word).toInt < 0 ∧
      0 ≤ (0x7FFFFFFF#32 : Word).toInt ∧ 0 ≤ (0#32 : Word).toInt ∧
      ∀ n ∈ List.range 4, Running i0 n { running i0 n with calls := [{ ret := 7#32, field := 9#32 }] } := by
  decide +kernel

/-! Whole transactions, each busy-wait with one waiting read. -/

def flushTurns : FlushTurns where
  read0 := flags 0x7F50#32
  write0 := flags 0x7F50#32
  read1 := Periph.zero
  write1 := Periph.zero
  txRead := Periph.zero
  txWrite := Periph.zero
  txWait := [{ Periph.zero with txctrl := 0x80#32 }]
  txDone := Periph.zero
  rxRead := Periph.zero
  rxWrite := Periph.zero
  rxWait := [{ Periph.zero with rxctrl := 0x80#32 }]
  rxDone := Periph.zero

def addressTurns : AddressTurns := ⟨Periph.zero, Periph.zero, Periph.zero, Periph.zero⟩

def readTurns : ReadTurns where
  armRx := Periph.zero
  restartRead := mctrl 0x1#32
  restartWrite := Periph.zero
  restartWait := [mctrl 0x2#32]
  restartDone := Periph.zero
  readAddrPush := Periph.zero
  byteWait := [flags 0x7F40#32]
  byteDone := flags 0x10#32
  pop := { Periph.zero with rxFifo := [0x7F#8] }
  clear := Periph.zero

def stopTurns : StopTurns where
  stopRead := mctrl 0x1#32
  stopWrite := Periph.zero
  stopWait := [flags 0x7F10#32]
  stopDone := flags 0x440#32
  clear := flags 0x440#32
  eval := flags 0x400#32

theorem witness_turns_end :
    flushTurns.Ends idle.cfg ∧ readTurns.Ends idle.cfg ∧ stopTurns.Ends idle.cfg ∧ Idle idle ∧ idle.mock = none ∧
      idle.input = none := by decide +kernel

theorem witness_regwr_transaction :
    (withTurns idle (flushTurns.turns ++ addressTurns.turns ++ [Periph.zero] ++ stopTurns.turns ++ [])).turns =
      flushTurns.turns ++ addressTurns.turns ++ [Periph.zero] ++ stopTurns.turns ++ [] := rfl

/-- The two boundary lengths, 0 and `FIFO_DEPTH - 2`. -/
theorem witness_bufwr_transaction :
    let bytes : List Byte := [0x11#8, 0x22#8, 0x33#8, 0x44#8, 0x55#8, 0x66#8]
    let s : State := { idle with payload := (List.range 6).zip bytes }
    (0#32 : Word).toInt = (([] : List Byte).length : Int) ∧ (6#32 : Word).toInt = (bytes.length : Int) ∧
      bytes.length + 2 ≤ s.cfg.fifoDepth ∧ ∀ k, (h : k < bytes.length) → s.payload.read k = some bytes[k] := by
  decide +kernel

theorem witness_bufwr_too_long : Idle idle ∧ (idle.cfg.fifoDepth : Int) - 2 < (7#32 : Word).toInt := by decide +kernel

theorem witness_init_transaction :
    let ok : CallReply := { ret := idle.cfg.stOk, field := 5#32 }
    Idle { idle with calls := [ok, ok, ok, ok] } ∧ ok.ret = idle.cfg.stOk ∧ 0 ≤ ok.ret.toInt := by decide +kernel

/-! Invariants. -/

/-- A BUFWR in its payload step, all three bytes stored. -/
def midBufwr : State :=
  { running b0 14 with
    payload := [(0, 0x11#8), (1, 0x22#8), (2, 0x33#8)]
    eng := { (running b0 14).eng with idx := 1#32 }
    turns := [Periph.zero] }

theorem witness_invariant : Inv midBufwr ∧ ∃ t, step midBufwr = .next t ∧ t.eng.idx = 2#32 :=
  ⟨⟨by decide +kernel, ⟨by decide +kernel, by decide +kernel⟩, fun _ => by
      have h : latched midBufwr.eng = some b0 := by decide +kernel
      simp only [InTable, h, b0]
      decide +kernel⟩, by
    obtain ⟨t, h, h2⟩ := exists_next (o := step midBufwr) (p := fun t => t.eng.idx == 2#32) (by decide +kernel)
    exact ⟨t, h, by simpa using h2⟩⟩

theorem witness_next_micro_step :
    midBufwr.eng.busy = true ∧ latched midBufwr.eng = some b0 ∧ midBufwr.mock = none ∧ 0 ≤ (3#32 : Word).toInt ∧
      ∀ k ∈ List.range 3, (midBufwr.payload.read k).isSome = true := by decide +kernel

/-- A BUFWR that is too long, at CHK, with no byte stored: the premise about stored bytes does not ask for any. -/
theorem witness_next_micro_step_too_long :
    let i : Instr := .bufwr 0x50#8 0x10#8 7#32
    Inv (running i 31) ∧ (running i 31).eng.busy = true ∧ latched (running i 31).eng = some i ∧
      (running i 31).mock = none ∧ ¬ (7#32 : Word).toInt ≤ ((running i 31).cfg.fifoDepth : Int) - 2 := by
  refine ⟨⟨by decide +kernel, ⟨by decide +kernel, by decide +kernel⟩, fun _ => ?_⟩, by decide +kernel⟩
  have h : latched (running (.bufwr 0x50#8 0x10#8 7#32) 31).eng = some (.bufwr 0x50#8 0x10#8 7#32) := by decide +kernel
  simp only [InTable, h]
  decide +kernel

/-- For the statements about every step of a busy engine: steps that answer a next state. -/
theorem witness_busy_steps :
    ∀ i ∈ [w0, b0, r0, i0], (after (step { running i 2 with
      turns := [Periph.zero], calls := [{ ret := 0#32, field := 0#32 }] })).isSome = true := by decide +kernel

/-- Each place a command completes at, with the status it writes; the engine held another status before. -/
theorem witness_completions :
    [(w0, 19, flags 0x400#32), (b0, 19, flags 0x100#32), (.bufwr 0#8 0#8 7#32, 31, flags 0#32), (r0, 26, flags 0x4000#32),
        (i0, 0, flags 0#32), (i0, 3, flags 0#32), (i0, 5, flags 0#32)].map (fun x =>
      (after (step { running x.1 x.2.1 with
        turns := [x.2.2], calls := [{ ret := 7#32, field := 0#32 }],
        eng := { (running x.1 x.2.1).eng with status := 1#32 } })).map fun t => (t.eng.busy, t.eng.status)) =
      [some (false, -9), some (false, -9), some (false, -3), some (false, -9), some (false, 7#32), some (false, 7#32),
        some (false, 0#32)] := by decide +kernel

/-- Each wait of the tables, with a value that keeps waiting and one that does not: the step number after it. -/
theorem witness_waits :
    let both (i : Instr) (n : Nat) (p q : Periph) : List (Option (Bool × Nat)) :=
      [p, q].map fun x => (after (step (withTurns (running i n) [x]))).map fun t => (t.eng.busy, t.eng.upc)
    let tx : Periph := { Periph.zero with txctrl := 0x80#32 }
    let rx : Periph := { Periph.zero with rxctrl := 0x80#32 }
    both w0 6 tx (flags 0#32) = [some (true, 6), some (true, 7)] ∧
      both b0 9 rx (flags 0#32) = [some (true, 9), some (true, 10)] ∧
      both w0 17 (flags 0x7F10#32) (flags 0x40#32) = [some (true, 17), some (true, 18)] ∧
      both r0 17 (mctrl 2#32) (mctrl 0x5#32) = [some (true, 17), some (true, 18)] ∧
      both r0 19 (flags 0x7F40#32) (flags 0x10#32) = [some (true, 19), some (true, 20)] ∧
      both r0 24 (flags 0x7F10#32) (flags 0x40#32) = [some (true, 24), some (true, 25)] := by decide +kernel

theorem witness_pop :
    (running r0 20).eng.busy = true ∧ (running r0 20).eng.op = 0x03#8 ∧ (running r0 20).eng.upc = 20 ∧
      (after (step (withTurns (running r0 20) [Periph.zero]))).isSome = true ∧
      (after (step (withTurns (running r0 19) [Periph.zero]))).isSome = true := by decide +kernel

theorem witness_configuration_written :
    (after (step { running i0 4 with calls := [] })).any (fun t => t.env != (running i0 4).env) = true := by decide +kernel

theorem witness_payload_written :
    (after (step { idle with input := some (.storeByte 5 0x11#8) })).any (fun t => t.payload != idle.payload) = true ∧
      (after (step { idle with input := some (.passBuffer [1#8]) })).any (fun t => t.payload != idle.payload) = true := by
  decide +kernel

theorem witness_init_step :
    latched (running i0 0).eng = some i0 ∧ (running i0 0).eng.busy = true ∧
      (after (exec i0 { running i0 0 with calls := [{ ret := 0#32, field := 0#32 }] })).isSome = true := by decide +kernel

/-- Two idle machines that differ in every engine register but `BUSY`. -/
theorem witness_nothing_carries_over :
    Agree idle { idle with eng := {
      op := 0xFF#8, addr := 1#8, reg := 2#8, val := 3#8, len := 4#32, speed := 5#32, status := 6#32, rdata := 7#8,
      idx := 8#32, t := 9#32, busy := false, upc := 17 } } := by
  refine ⟨rfl, rfl, rfl, rfl, rfl, rfl, rfl, rfl, rfl, rfl, rfl, rfl, fun h => ?_⟩
  exact absurd h (by decide)

/-- Two machines in the middle of a REGWR that differ in what it no longer uses. -/
theorem witness_nothing_carries_over_busy :
    Agree (running w0 6) { running w0 6 with eng := { (running w0 6).eng with t := 9#32, len := 4#32, rdata := 7#8 } } :=
  ⟨rfl, rfl, rfl, rfl, rfl, rfl, rfl, rfl, rfl, rfl, rfl, rfl, fun _ =>
    ⟨rfl, rfl, fun i h => by
      cases h
      exact ⟨fun h => absurd h (by decide), fun h => absurd h (by decide)⟩⟩⟩

/-- The mock in its initial state, one byte to deliver, a delay of 1 everywhere. -/
def mock1 : Mock :=
  { Mock.initial with
    rxbytes := [0x7F#8], errinj := { ErrorFlags.none with anack := true }
    dTxf := some 1, dRxf := some 1, dRst := some 1, dRxt := some 1, dStp := some 1 }

/-- REGWR standing at its first step, at the wait for a STOP that never comes, and completed. -/
theorem witness_one_byte :
    let s : State := { idle with payload := [(0, 0xAB#8)], mock := some mock1 }
    let hang : State := { s with mock := some { mock1 with dStp := none } }
    Idle s ∧ s.input = none ∧ s.host = [] ∧ s.payload.read 0 = some 0xAB#8 ∧
      (after (issueAndRun w0 0 s)).any (fun t => t.eng.busy && t.eng.upc == 0) = true ∧
      (after (issueAndRun w0 40 hang)).any (fun t => t.eng.busy && t.eng.upc == 17) = true ∧
      (after (issueAndRun w0 23 s)).any (fun t => !t.eng.busy) = true := by decide +kernel

/-- V60: an error flag up when STOPF is seen, still up at the evaluation. -/
theorem witness_raised_error :
    Running w0 17 (withTurns (running w0 17) [flags 0x440#32, flags 0x440#32, flags 0x400#32]) ∧
      Running b0 17 (running b0 17) ∧ Running r0 24 (running r0 24) ∧ anySet 0x440#32 cfg0.mStopf = true ∧
      0x400#32 ∈ cfg0.errMasks ∧ 0x440#32 &&& 0x400#32 ≠ 0#32 ∧ FlagsStay 0x440#32 0x440#32 ∧
      FlagsStay (0x440#32 &&& ~~~cfg0.mStopf) 0x400#32 := by decide +kernel

/-- A byte HOST may use after the evaluation, one it may still use while the engine stays idle, and none. -/
theorem witness_rdata_trusted :
    let done : State := { running r0 26 with eng := { (running r0 26).eng with busy := false, rdata := 0x7F#8 } }
    Running r0 26 (running r0 26) ∧
      [0x400#32, 0#32].map (fun v => (after (exec r0 (withTurns (running r0 26) [flags v]))).map fun t =>
        (t.eng.status == t.cfg.stOk, hostRdata t)) = [some (false, none), some (true, some 0#8)] ∧
      (after (step done)).map hostRdata = some (some 0x7F#8) ∧ hostRdata done = some 0x7F#8 := by decide +kernel

/-- The waits of the mock: a flush bit set with its countdown at 0 and at 2, and off. -/
theorem witness_mock_flush :
    ∀ d ∈ [some 0, some 2, none],
      let m : Mock := { Mock.initial with cTxf := d, cRxf := d }
      let at6 : State := { running w0 6 with mock := some m, periph := { Periph.zero with txctrl := 0x80#32 } }
      let at9 : State := { running w0 9 with mock := some m, periph := { Periph.zero with rxctrl := 0x80#32 } }
      w0.opcode ≠ 0x04#8 ∧ Running w0 6 at6 ∧ at6.input = none ∧ at6.periph.txctrl &&& at6.cfg.mTxflush ≠ 0#32 ∧
        Running w0 9 at9 ∧ at9.input = none ∧ at9.periph.rxctrl &&& at9.cfg.mRxflush ≠ 0#32 := by decide +kernel

/-- The error word of a script: one flag, all seven, none. -/
theorem witness_mock_error_word :
    cfg0.wf = true ∧ 0x7F00#32 &&& ~~~errMask cfg0 = 0#32 ∧ errWord cfg0 mock1.errinj = 0x400#32 ∧
      errWord cfg0 ⟨true, true, true, true, true, true, true⟩ = 0x7F00#32 ∧ errWord cfg0 ErrorFlags.none = 0#32 := by
  decide +kernel

theorem witness_mock_keeps_script :
    (after (step { running r0 19 with mock := some { mock1 with cRxt := some 0 }, periph := { Periph.zero with rxcnt := 1#32 } })).map
        (fun t => t.mock.map fun m => (m.rxbytes, m.errinj.anack)) = some (some ([], true)) ∧
      (after (step (withTurns (running r0 19) [Periph.zero]))).map (fun t => t.mock) = some none := by decide +kernel

/-- The mock runs, with the numbers the statements name. -/
theorem witness_mock_runs :
    let s : State := { idle with mock := some mock1, periph := flags 0x7F50#32 }
    Idle s ∧ s.input = none ∧ s.periph.mctrl &&& s.cfg.mStop = 0#32 ∧ mock1.cRxt = none ∧ mock1.cStp = none ∧
      (after (issueAndRun w0 23 s)).map (fun t => (t.eng.busy, t.eng.status)) = some (false, -9) ∧
      (after (issueAndRun r0 32 s)).map (fun t => (t.eng.busy, t.eng.status, t.eng.rdata)) =
        some (false, -9, 0x7F#8) := by decide +kernel

/-- INIT on the mock with nothing scripted, and with each call in turn scripted to fail. -/
theorem witness_mock_init :
    let s : State := { idle with mock := some mock1 }
    Idle s ∧ s.input = none ∧ s.cfg.stOk = 0#32 ∧ mock1.retInit.getD 0#32 = 0#32 ∧ mock1.retFreq = none ∧
      [mock1, { mock1 with retInit := some 7#32 }, { mock1 with retFreq := some (-3) },
          { mock1 with retTxthr := some 7#32 }, { mock1 with retRxthr := some 7#32 }].map (fun m =>
        (after (issueAndRun (.init 0x80000000#32) 6 { s with mock := some m })).map fun t =>
          (t.eng.status, t.trace.length)) =
        [some (0#32, 5), some (7#32, 1), some (-3, 2), some (7#32, 3), some (7#32, 4)] := by decide +kernel

end Sys2Proof.Tests
end

/-! Proofs of the statements of 00_scope.md: accesses under the unconstrained environment (R10), and the refusal of a
shallow FIFO (R8). -/

namespace Sys2Proof.Machine

/-! ### Accesses, PERIPHERAL's next move being queued -/

/-- A read sees PERIPHERAL where the queue's head has moved it (20_memory.md R72). -/
theorem freeRead_queued {s : State} (hm : s.mock = none) {p : Periph} {ps : List Periph} (ht : s.turns = p :: ps)
    (r : Reg) :
    freeRead r s = (periphReadValue r p,
      { s with periph := periphAfterRead r p, turns := ps, trace := s.trace ++ [.read r (periphReadValue r p)] }) := by
  simp [freeRead, envTurn_queued hm ht, State.log]

/-- A write meets PERIPHERAL where the queue's head has moved it (20_memory.md R64). -/
theorem freeWrite_queued {s : State} (hm : s.mock = none) {p : Periph} {ps : List Periph} (ht : s.turns = p :: ps)
    (r : Reg) (v : Word) :
    freeWrite r v s =
      { s with periph := periphAfterWrite r v p, turns := ps, trace := s.trace ++ [.write r v] } := by
  simp [freeWrite, envTurn_queued hm ht, State.log]

theorem memRead_queued {s : State} (hw : s.cfg.wf = true) (hm : s.mock = none) {p : Periph} {ps : List Periph}
    (ht : s.turns = p :: ps) (r : Reg) :
    memRead (regAddr s.cfg r) s = .next (periphReadValue r p,
      { s with periph := periphAfterRead r p, turns := ps, trace := s.trace ++ [.read r (periphReadValue r p)] }) := by
  rw [memRead_free hw hm, freeRead_queued hm ht]

theorem memWrite_queued {s : State} (hw : s.cfg.wf = true) (hm : s.mock = none) {p : Periph} {ps : List Periph}
    (ht : s.turns = p :: ps) (r : Reg) (v : Word) :
    memWrite (regAddr s.cfg r) v s =
      .next { s with periph := periphAfterWrite r v p, turns := ps, trace := s.trace ++ [.write r v] } := by
  rw [memWrite_free hw hm, freeWrite_queued hm ht]

/-! ### What a read of `FIFO` returns and leaves (20_memory.md R65, 93 U4) -/

@[simp] theorem withLowByte_low (v : Word) (b : Byte) : (withLowByte v b).extractLsb' 0 8 = b := by
  apply BitVec.eq_of_getLsbD_eq
  intro k hk
  have hmask : ∀ j < 8, (0xFFFFFF00#32).getLsbD j = false := by decide
  simpa [withLowByte, hk, hmask k hk] using fun _ => (by omega : k < 32)

@[simp] theorem withLowByte_high (v : Word) (b : Byte) :
    (withLowByte v b).extractLsb' 8 24 = v.extractLsb' 8 24 := by
  apply BitVec.eq_of_getLsbD_eq
  intro k hk
  have hmask : ∀ j < 24, (0xFFFFFF00#32).getLsbD (8 + j) = true := by decide
  simp [withLowByte, hk, hmask k hk]

theorem fifoReadValue_nil {p : Periph} (h : p.rxFifo = []) : fifoReadValue p = p.fifoOpen := by
  simp [fifoReadValue, h]

theorem fifoReadValue_cons {p : Periph} {b : Byte} {rest : List Byte} (h : p.rxFifo = b :: rest) :
    fifoReadValue p = withLowByte p.fifoOpen b := by
  simp [fifoReadValue, h]

theorem periphAfterRead_fifo_nil {p : Periph} (h : p.rxFifo = []) : periphAfterRead .fifo p = p := by
  cases p
  cases h
  rfl

theorem periphAfterRead_fifo_cons {p : Periph} {b : Byte} {rest : List Byte} (h : p.rxFifo = b :: rest) :
    periphAfterRead .fifo p = { p with rxFifo := rest } := by
  simp [periphAfterRead, h]

/-! ### What a write of a flag register leaves (20_memory.md R66) -/

/-- Bit by bit: a flag stays exactly when its bit of the value written is 0. -/
theorem getLsbD_writeOneToClear (old v : Word) (k : Nat) :
    (writeOneToClear old v).getLsbD k = (old.getLsbD k && !v.getLsbD k) := by
  by_cases hk : k < 32
  · simp [writeOneToClear, hk]
  · rw [BitVec.getLsbD_of_ge _ k (by omega), BitVec.getLsbD_of_ge old k (by omega), Bool.false_and]

/-! ### The depth of the FIFO (00_scope.md R8) -/

theorem three_le_fifoDepth_of_wf {c : Config} (h : c.wf = true) : 3 ≤ c.fifoDepth := by
  simp only [Config.wf, Config.depthOk, Bool.and_eq_true, decide_eq_true_eq] at h
  omega

/-- Under an ill-formed configuration every command is refused, idle or busy (00_scope.md R7, R8). -/
theorem exec_of_not_wf {s : State} (h : ¬ s.cfg.wf = true) (i : Instr) : exec i s = .refused .badConfiguration := by
  rw [exec_eq, runCommand, if_neg h]

/-! ### The statements -/

/-- Settles O16: each register's read is the queued read at that register; `FIFO`'s splits on the RX FIFO. -/
theorem readAccessAnswersThePeripheral : Obligations.ReadAccessAnswersThePeripheral := by
  intro s p ps hw hm ht got
  have hread := memRead_queued hw hm ht
  refine ⟨hread .mctrl, hread .txctrl, hread .rxctrl, hread .rxcnt, hread .intfl0, hread .intfl1, ?_, ?_⟩
  · intro hempty
    have h := hread .fifo
    rwa [periphAfterRead_fifo_nil hempty, periphReadValue, fifoReadValue_nil hempty] at h
  · intro b rest hcons
    have h := hread .fifo
    rw [periphAfterRead_fifo_cons hcons, periphReadValue, fifoReadValue_cons hcons] at h
    exact ⟨withLowByte p.fifoOpen b, h, withLowByte_low _ _, withLowByte_high _ _⟩

/-- Settles O17: each register's write is the queued write at that register; the flag words are fixed by the bits that
write-one-to-clear leaves. -/
theorem writeAccessReachesThePeripheral : Obligations.WriteAccessReachesThePeripheral := by
  intro s p ps v hw hm ht put
  have hwrite (r : Reg) := memWrite_queued hw hm ht r v
  exact ⟨hwrite .mctrl, hwrite .txctrl, hwrite .rxctrl, hwrite .rxcnt, hwrite .fifo,
    ⟨_, hwrite .intfl0, getLsbD_writeOneToClear _ _⟩, ⟨_, hwrite .intfl1, getLsbD_writeOneToClear _ _⟩⟩

/-- Settles O12: a well-formed configuration has at least three byte slots, and every command checks for one first. -/
theorem shallowFifoIsRefused : Obligations.ShallowFifoIsRefused := by
  intro s i hshallow
  have hwf : ¬ s.cfg.wf = true := fun hw => absurd (three_le_fifoDepth_of_wf hw) (by omega)
  exact exec_of_not_wf hwf i

end Sys2Proof.Machine

/-! Proofs of the statements of 10_state.md: what the engine registers hold after a micro-step, what a micro-step takes
from them, and the statements that rest on it. -/

namespace Sys2Proof.Machine

/-! ### Two outcomes side by side -/

/-- Both outcomes are next states related by `R`, or both are the same fault or the same refusal. -/
inductive Lockstep {α β : Type} (R : α → β → Prop) :
    Host.Outcome α Fault Refusal → Host.Outcome β Fault Refusal → Prop where
  | next {a : α} {b : β} (h : R a b) : Lockstep R (.next a) (.next b)
  | fault (r : Fault) : Lockstep R (.fault r) (.fault r)
  | refused (r : Refusal) : Lockstep R (.refused r) (.refused r)

theorem Lockstep.andThen {α β α' β' : Type} {R : α → β → Prop} {Q : α' → β' → Prop}
    {o : Host.Outcome α Fault Refusal} {o' : Host.Outcome β Fault Refusal}
    {f : α → Host.Outcome α' Fault Refusal} {f' : β → Host.Outcome β' Fault Refusal}
    (h : Lockstep R o o') (hf : ∀ a b, o = .next a → R a b → Lockstep Q (f a) (f' b)) :
    Lockstep Q (andThen o f) (andThen o' f') := by
  cases h with
  | next h => exact hf _ _ rfl h
  | fault r => exact .fault r
  | refused r => exact .refused r

theorem Lockstep.mono {α β : Type} {R Q : α → β → Prop} {o : Host.Outcome α Fault Refusal}
    {o' : Host.Outcome β Fault Refusal} (h : Lockstep R o o') (hrq : ∀ a b, R a b → Q a b) : Lockstep Q o o' := by
  cases h with
  | next h => exact .next (hrq _ _ h)
  | fault r => exact .fault r
  | refused r => exact .refused r

/-! ### The engine replaced -/

/-- The state with another engine in it. -/
def State.withEng (s : State) (e : Engine) : State := { s with eng := e }

@[simp] theorem withEng_self (s : State) : s.withEng s.eng = s := rfl
@[simp] theorem withEng_eng (s : State) (e : Engine) : (s.withEng e).eng = e := rfl
@[simp] theorem withEng_cfg (s : State) (e : Engine) : (s.withEng e).cfg = s.cfg := rfl
@[simp] theorem withEng_env (s : State) (e : Engine) : (s.withEng e).env = s.env := rfl
@[simp] theorem withEng_mock (s : State) (e : Engine) : (s.withEng e).mock = s.mock := rfl
@[simp] theorem withEng_periph (s : State) (e : Engine) : (s.withEng e).periph = s.periph := rfl
@[simp] theorem withEng_turns (s : State) (e : Engine) : (s.withEng e).turns = s.turns := rfl
@[simp] theorem withEng_calls (s : State) (e : Engine) : (s.withEng e).calls = s.calls := rfl
@[simp] theorem withEng_host (s : State) (e : Engine) : (s.withEng e).host = s.host := rfl
@[simp] theorem withEng_input (s : State) (e : Engine) : (s.withEng e).input = s.input := rfl

theorem envTurn_withEng (s : State) (e : Engine) : envTurn (s.withEng e) = (envTurn s).withEng e := by
  unfold envTurn
  rw [withEng_mock]
  split
  · rfl
  · rw [withEng_turns]
    split <;> rfl

theorem freeRead_withEng (r : Reg) (s : State) (e : Engine) :
    freeRead r (s.withEng e) = ((freeRead r s).1, (freeRead r s).2.withEng e) := by
  simp only [freeRead, envTurn_withEng]
  rfl

theorem freeWrite_withEng (r : Reg) (v : Word) (s : State) (e : Engine) :
    freeWrite r v (s.withEng e) = (freeWrite r v s).withEng e := by
  simp only [freeWrite, envTurn_withEng]
  rfl

/-- A read neither sees nor touches the engine. -/
theorem memRead_withEng (a : Nat) (s : State) (e : Engine) :
    Lockstep (fun x x' => x' = (x.1, x.2.withEng e)) (memRead a s) (memRead a (s.withEng e)) := by
  simp only [memRead, withEng_cfg, withEng_mock, withEng_periph, freeRead_withEng]
  split
  · exact .refused _
  · split
    · exact .next rfl
    · split
      · exact .next rfl
      · exact .refused _

/-- A write neither sees nor touches the engine. -/
theorem memWrite_withEng (a : Nat) (v : Word) (s : State) (e : Engine) :
    Lockstep (fun t t' => t' = t.withEng e) (memWrite a v s) (memWrite a v (s.withEng e)) := by
  simp only [memWrite, withEng_cfg, withEng_mock, withEng_periph, freeWrite_withEng]
  split
  · exact .refused _
  · split <;> exact .next rfl

theorem callReply_withEng (k : Collaborator) (s : State) {e : Engine} (h : e.speed = s.eng.speed) :
    callReply k (s.withEng e) = ((callReply k s).1, (callReply k s).2.withEng e) := by
  unfold callReply freeReply
  rw [withEng_mock]
  split
  · rw [withEng_calls]
    split <;> rfl
  · rw [withEng_eng, h]
    rfl

theorem callRecord_withEng (k : Collaborator) (s : State) {e : Engine} (h : e.speed = s.eng.speed) :
    callRecord k (s.withEng e) = callRecord k s := by
  cases k <;> simp [callRecord, h]

/-! ### The engine after a micro-step -/

/-- The register whose value a micro-step loads into `x[T]`. -/
def MicroStep.loads : MicroStep → Option Reg
  | .wbkRead r | .setbRead r | .poll1 r _ | .poll0 r _ => some r
  | .pop => some .fifo
  | .eval => some .intfl0
  | .wbkWrite _ | .setbWrite _ _ | .push _ | .wr _ _ | .w1c _ _ | .chklen | .payload | .call _ | .gpiods | .finish => none

/-- The engine after a micro-step that answered, where `v` is the value the environment gave it: the register read, or
what the collaborator returned (40_microops.md R131 to R145). -/
def engineAfter (m : MicroStep) (c : Config) (v : Word) (e : Engine) : Engine :=
  match m with
  | .wbkRead _ | .setbRead _ => { e with t := v, upc := e.upc + 1 }
  | .wbkWrite _ | .setbWrite _ _ | .push _ | .wr _ _ | .w1c _ _ | .gpiods => { e with upc := e.upc + 1 }
  | .poll1 _ b => { e with t := v, upc := if anySet v (c.mask b) then e.upc + 1 else e.upc }
  | .poll0 _ b => { e with t := v, upc := if anySet v (c.mask b) then e.upc else e.upc + 1 }
  | .pop => { e with t := v, rdata := lowByte v, upc := e.upc + 1 }
  | .eval => { e with t := v, status := if errorSeen c v then c.stCommErr else c.stOk, busy := false }
  | .chklen =>
    if e.len.toInt > (c.fifoDepth : Int) - 2 then { e with status := c.stBadParam, busy := false }
    else { e with idx := 0#32, upc := 0 }
  | .payload =>
    if (e.idx.toNat : Int) < e.len.toInt then { e with idx := e.idx + 1#32 } else { e with upc := e.upc + 1 }
  | .call k => if callFails c k v then { e with status := v, busy := false } else { e with upc := e.upc + 1 }
  | .finish => { e with status := c.stOk, busy := false }

/-- The engine registers a micro-step takes from an earlier one agree. -/
def SameOperands (m : MicroStep) (e e' : Engine) : Prop :=
  match m with
  | .wbkWrite _ | .setbWrite _ _ => e'.t = e.t
  | .push o => pushByte o e' = pushByte o e
  | .chklen => e'.len = e.len
  | .payload => e'.idx = e.idx ∧ e'.len = e.len
  | .call _ => e'.speed = e.speed
  | .wbkRead _ | .setbRead _ | .wr _ _ | .w1c _ _ | .poll1 _ _ | .poll0 _ _ | .pop | .eval | .gpiods | .finish => True

theorem sameOperands_refl (m : MicroStep) (e : Engine) : SameOperands m e e := by
  cases m <;> simp [SameOperands]

/-- The two states after micro-step `m` begun with engine `s.eng` and with engine `e`: the environment answered both with
the same value, and outside the engine they are the same. -/
def SameAnswer (m : MicroStep) (s : State) (e : Engine) (t t' : State) : Prop :=
  ∃ v, t.eng = engineAfter m s.cfg v s.eng ∧ t' = t.withEng (engineAfter m s.cfg v e) ∧
    ∀ r, m.loads = some r → t.trace = s.trace ++ [.read r v]

section
variable {s : State} {e : Engine} {Q : State → State → Prop}

/-- Two reading micro-steps that differ in the engine get the same answer. -/
theorem loadT_lockstep (hw : s.cfg.wf = true) (r : Reg) (k : State → State)
    (h : ∀ (v : Word) (s1 : State), s1.eng = s.eng → s1.trace = s.trace ++ [.read r v] →
      Q (k (s1.setT v)) (k ((s1.withEng e).setT v))) :
    Lockstep Q (loadT r s k) (loadT r (s.withEng e) k) := by
  refine (memRead_withEng (regAddr s.cfg r) s e).andThen ?_
  rintro x _ hx rfl
  obtain ⟨hsame, htrace⟩ := memRead_next hw hx
  exact .next (h x.1 x.2 hsame.eng htrace)

/-- Two writing micro-steps that differ in the engine but write the same value. -/
theorem store_lockstep (hw : s.cfg.wf = true) (r : Reg) {v v' : Word} (hv : v' = v) (k : State → State)
    (h : ∀ s1 : State, s1.eng = s.eng → Q (k s1) (k (s1.withEng e))) :
    Lockstep Q (store r v s k) (store r v' (s.withEng e) k) := by
  subst hv
  refine (memWrite_withEng (regAddr s.cfg r) v' s e).andThen ?_
  rintro t _ ht rfl
  exact .next (h t (memWrite_next hw ht).1.eng)

end

/-- A micro-step sees of the engine its operands only, and what it does to the engine is `engineAfter`. -/
theorem microStep_lockstep {m : MicroStep} {s : State} {e : Engine} (hw : s.cfg.wf = true)
    (ho : SameOperands m s.eng e) :
    Lockstep (SameAnswer m s e) (microStep m s) (microStep m (s.withEng e)) := by
  cases m with
  | wbkRead r | setbRead r | pop | eval =>
    simp only [microStep, readHalf, pop, evalErrors]
    refine loadT_lockstep hw _ _ fun v s1 he ht => ⟨v, ?_, rfl, by rintro _ ⟨⟩; exact ht⟩
    rw [← he]; rfl
  | poll1 r b | poll0 r b =>
    simp only [microStep, pollSet, pollClear]
    refine loadT_lockstep hw _ _ fun v s1 he ht => ⟨v, ?_⟩
    by_cases hset : anySet v (s.cfg.mask b) = true
    · simp only [setT_eng_t, engineAfter, hset, ← he]
      exact ⟨rfl, rfl, by rintro _ ⟨⟩; exact ht⟩
    · simp only [setT_eng_t, engineAfter, hset, ← he]
      exact ⟨rfl, rfl, by rintro _ ⟨⟩; exact ht⟩
  | wbkWrite r | setbWrite r b =>
    have ho : e.t = s.eng.t := ho
    refine store_lockstep hw r (by simp [ho]) State.advance fun s1 he => ⟨0#32, ?_, rfl, by rintro _ ⟨⟩⟩
    rw [← he]; rfl
  | push o =>
    have ho : pushByte o e = pushByte o s.eng := ho
    refine store_lockstep hw .fifo (by simp [ho]) State.advance fun s1 he => ⟨0#32, ?_, rfl, by rintro _ ⟨⟩⟩
    rw [← he]; rfl
  | wr r v | w1c r b =>
    refine store_lockstep hw r rfl State.advance fun s1 he => ⟨0#32, ?_, rfl, by rintro _ ⟨⟩⟩
    rw [← he]; rfl
  | chklen =>
    have ho : e.len = s.eng.len := ho
    simp only [microStep, chklen, lengthTooLong, lengthNegative, withEng_eng, withEng_cfg, ho, decide_eq_true_eq]
    split
    · rename_i hlong
      exact .next ⟨0#32, (if_pos hlong).symm, congrArg (State.withEng _) (if_pos (ho ▸ hlong)).symm, by rintro _ ⟨⟩⟩
    · rename_i hlong
      split
      · exact .refused _
      · exact .next ⟨0#32, (if_neg hlong).symm, congrArg (State.withEng _) (if_neg (ho ▸ hlong)).symm, by rintro _ ⟨⟩⟩
  | payload =>
    obtain ⟨hidx, hlen⟩ : e.idx = s.eng.idx ∧ e.len = s.eng.len := ho
    have hread : bufRead s.eng.idx.toNat (s.withEng e) = bufRead s.eng.idx.toNat s := rfl
    simp only [microStep, payloadStep, payloadLeft, withEng_eng, hidx, hlen, hread, decide_eq_true_eq]
    split
    · rename_i hleft
      cases bufRead s.eng.idx.toNat s with
      | next b =>
        refine store_lockstep hw .fifo rfl _ fun s1 he => ⟨0#32, ?_, ?_, by rintro _ ⟨⟩⟩
        · rw [← he] at hleft ⊢
          exact (if_pos hleft).symm
        · exact congrArg (State.withEng _) (if_pos (by rwa [hidx, hlen])).symm
      | fault r => exact .fault r
      | refused r => exact .refused r
    · rename_i hleft
      exact .next ⟨0#32, (if_neg hleft).symm, congrArg (State.withEng _) (if_neg (by rwa [hidx, hlen])).symm,
        by rintro _ ⟨⟩⟩
  | call k =>
    have ho : e.speed = s.eng.speed := ho
    have hsame := callReply_same k s
    simp only [microStep, callStep, callReply_withEng k s ho, callRecord_withEng k s ho, withEng_cfg, withEng_mock,
      withEng_env]
    split
    · rename_i hfail
      refine .next ⟨(callReply k s).1.ret, ?_, congrArg (State.withEng _) (if_pos hfail).symm, by rintro _ ⟨⟩⟩
      rw [hsame]
      exact (if_pos hfail).symm
    · rename_i hfail
      refine .next ⟨(callReply k s).1.ret, ?_, congrArg (State.withEng _) (if_neg hfail).symm, by rintro _ ⟨⟩⟩
      rw [hsame]
      exact (if_neg hfail).symm
  | gpiods => exact .next ⟨0#32, rfl, rfl, by rintro _ ⟨⟩⟩
  | finish => exact .next ⟨0#32, rfl, rfl, by rintro _ ⟨⟩⟩

/-- The engine after a micro-step, and the trace entry of the value it loaded. -/
theorem microStep_engine {m : MicroStep} {s t : State} (hw : s.cfg.wf = true) (h : microStep m s = .next t) :
    ∃ v, t.eng = engineAfter m s.cfg v s.eng ∧ ∀ r, m.loads = some r → t.trace = s.trace ++ [.read r v] := by
  have hlock := microStep_lockstep hw (sameOperands_refl m s.eng)
  rw [withEng_self, h] at hlock
  cases hlock with
  | next hans =>
    obtain ⟨v, heng, -, htrace⟩ := hans
    exact ⟨v, heng, htrace⟩

/-! ### The step tables -/

/-- The last step of a command's table; `CHK` of BUFWR stands outside the count (10_state.md R32, R33). -/
def lastStep : Instr → Nat
  | .regwr _ _ _ | .bufwr _ _ _ => 19
  | .regrd _ _ => 26
  | .init _ => 5

/-- Where the tables hold a micro-step: in which commands and at which steps, with a step to follow it unless it ends the
command, and with no later use of `x[T]` unless it loads `x[T]`. -/
def fitsTable (i : Instr) (n : Nat) (m : MicroStep) : Bool :=
  match m with
  | .wbkWrite _ | .setbWrite _ _ => usesT i n && !usesT i (n + 1) && n < lastStep i
  | .push o => i.opcode != 0x04#8 && (o != .val || i.opcode == 0x01#8) && !usesT i (n + 1) && n < lastStep i
  | .wr _ _ | .w1c _ _ => !usesT i (n + 1) && n < lastStep i
  | .wbkRead _ | .setbRead _ | .poll1 _ _ | .poll0 _ _ => n < lastStep i
  | .pop => i.opcode == 0x03#8 && n == 20
  | .eval => n == lastStep i
  | .chklen => i.opcode == 0x02#8 && n == chkStep
  | .payload => i.opcode == 0x02#8 && n == 14
  | .call _ | .gpiods => i.opcode == 0x04#8 && n ≤ 4
  | .finish => i.opcode == 0x04#8 && n == 5

theorem rowOf_lt {i : Instr} {n : Nat} {m : MicroStep} (h : rowOf i n = some m) : n < 32 := by
  have lt_of_entry {l : List MicroStep} (hl : l.length ≤ 32) (h : l[n]? = some m) : n < 32 :=
    (List.getElem?_eq_some_iff.1 h).1.trans_le hl
  cases i with
  | regwr addr reg val => exact lt_of_entry (l := regwrTable) (by decide) h
  | bufwr addr reg len =>
    by_cases hn : n = chkStep
    · rw [hn]; decide
    · exact lt_of_entry (l := bufwrTable) (by decide) ((if_neg hn).symm.trans h)
  | regrd addr reg => exact lt_of_entry (l := regrdTable) (by decide) h
  | init speed => exact lt_of_entry (l := initTable) (by decide) h

/-- Every row of the four tables is where `fitsTable` says. -/
theorem rowOf_fits {i : Instr} {n : Nat} {m : MicroStep} (h : rowOf i n = some m) : fitsTable i n m = true := by
  have hall : ((List.range 32).all fun n => (rowOf i n).all (fitsTable i n)) = true := by cases i <;> rfl
  have hn := List.all_eq_true.1 hall n (List.mem_range.2 (rowOf_lt h))
  rwa [h] at hn

/-- BUFWR's length check is its step `CHK` (43_bufwr.md R172). -/
theorem row_chklen_iff {i : Instr} {n : Nat} : rowOf i n = some .chklen ↔ i.opcode = 0x02#8 ∧ n = chkStep := by
  refine ⟨fun h => by simpa [fitsTable] using rowOf_fits h, ?_⟩
  rintro ⟨hop, rfl⟩
  cases i <;> simp [Instr.opcode] at hop
  rfl

/-- BUFWR's payload step is its step 14 (43_bufwr.md R172). -/
theorem row_payload_iff {i : Instr} {n : Nat} : rowOf i n = some .payload ↔ i.opcode = 0x02#8 ∧ n = 14 := by
  refine ⟨fun h => by simpa [fitsTable] using rowOf_fits h, ?_⟩
  rintro ⟨hop, rfl⟩
  cases i <;> simp [Instr.opcode] at hop
  rfl

/-- The only `POP` of the four tables is REGRD's step 20 (44_regrd.md R181). -/
theorem row_pop_iff {i : Instr} {n : Nat} : rowOf i n = some .pop ↔ i.opcode = 0x03#8 ∧ n = 20 := by
  refine ⟨fun h => by simpa [fitsTable] using rowOf_fits h, ?_⟩
  rintro ⟨hop, rfl⟩
  cases i <;> simp [Instr.opcode] at hop
  rfl

/-! ### What a micro-step does to each engine register -/

section
variable {m : MicroStep} {c : Config} {v : Word} {e e' : Engine}

/-- No micro-step writes a command register (10_state.md R31). -/
theorem engineAfter_sameCommand (m : MicroStep) (c : Config) (v : Word) (e : Engine) :
    SameCommand e (engineAfter m c v e) := by
  cases m with
  | chklen | payload | call k => simp only [engineAfter]; split <;> exact ⟨rfl, rfl, rfl, rfl, rfl, rfl⟩
  | _ => exact ⟨rfl, rfl, rfl, rfl, rfl, rfl⟩

@[simp] theorem latched_engineAfter (m : MicroStep) (c : Config) (v : Word) (e : Engine) :
    latched (engineAfter m c v e) = latched e := by
  obtain ⟨hop, haddr, hreg, hval, hlen, hspeed⟩ := engineAfter_sameCommand m c v e
  exact latched_congr hop haddr hreg hval hlen hspeed

/-- `STATUS` is written together with `BUSY` (60_exceptions.md R204). -/
theorem engineAfter_status_or_idle (m : MicroStep) (c : Config) (v : Word) (e : Engine) :
    (engineAfter m c v e).status = e.status ∨ (engineAfter m c v e).busy = false := by
  cases m with
  | eval | finish => exact .inr rfl
  | chklen | payload | call k => simp only [engineAfter]; split <;> simp
  | _ => exact .inl rfl

/-- `RDATA` is written by `POP` only (20_memory.md R63). -/
theorem engineAfter_rdata (c : Config) (v : Word) (e : Engine) (h : m ≠ .pop) :
    (engineAfter m c v e).rdata = e.rdata := by
  cases m with
  | pop => exact absurd rfl h
  | chklen | payload | call k => simp only [engineAfter]; split <;> rfl
  | _ => rfl

/-- A loading micro-step leaves the value read in `x[T]` (10_state.md R30). -/
theorem engineAfter_t_of_loads (c : Config) (v : Word) (e : Engine) (h : m.loads ≠ none) :
    (engineAfter m c v e).t = v := by
  cases m with
  | wbkRead r | setbRead r | poll1 r b | poll0 r b | pop | eval => rfl
  | _ => exact absurd rfl h

/-- Only `CHKLEN` and the payload step write `IDX` (10_state.md R29). -/
theorem engineAfter_idx (c : Config) (v : Word) (e : Engine) (h : m ≠ .chklen) (h' : m ≠ .payload) :
    (engineAfter m c v e).idx = e.idx := by
  cases m with
  | chklen => exact absurd rfl h
  | payload => exact absurd rfl h'
  | call k => simp only [engineAfter]; split <;> rfl
  | _ => rfl

/-- `CHKLEN` lets a command go on at step 0 with nothing pushed (40_microops.md R140). -/
theorem engineAfter_chklen (hb : (engineAfter .chklen c v e).busy = true) :
    (engineAfter .chklen c v e).idx = 0#32 ∧ (engineAfter .chklen c v e).upc = 0 := by
  simp only [engineAfter] at hb ⊢
  split at hb
  · cases hb
  · rw [if_neg ‹_›]
    exact ⟨rfl, rfl⟩

/-- But for `CHKLEN`, a micro-step stays or goes on to the next one (10_state.md R33). -/
theorem engineAfter_upc (c : Config) (v : Word) (e : Engine) (h : m ≠ .chklen) :
    (engineAfter m c v e).upc = e.upc ∨ (engineAfter m c v e).upc = e.upc + 1 := by
  cases m with
  | chklen => exact absurd rfl h
  | payload | call k => simp only [engineAfter]; split <;> simp
  | poll1 r b | poll0 r b => simp only [engineAfter]; split <;> simp
  | eval | finish => exact .inl rfl
  | _ => exact .inr rfl

/-- A command that goes on stays in its table (10_state.md R32). -/
theorem engineAfter_upc_le {i : Instr} (hrow : rowOf i e.upc = some m) (hm : m ≠ .chklen)
    (hb : (engineAfter m c v e).busy = true) : (engineAfter m c v e).upc ≤ lastStep i := by
  have hnext : e.upc < lastStep i := by
    have hfit := rowOf_fits hrow
    cases m with
    | eval | finish => cases hb
    | chklen => exact absurd rfl hm
    | payload | pop | call k | gpiods => cases i <;> simp_all [fitsTable, lastStep, Instr.opcode] <;> omega
    | _ => simp_all [fitsTable]
  have hupc := engineAfter_upc c v e hm
  omega

/-! ### Two engines that agree in what the micro-step takes -/

/-- `BUSY` and `UPC` come out alike, and so does the status a command ends with. -/
theorem engineAfter_congr (ho : SameOperands m e e') (hb : e'.busy = e.busy) (hu : e'.upc = e.upc) :
    (engineAfter m c v e').busy = (engineAfter m c v e).busy ∧
      (engineAfter m c v e').upc = (engineAfter m c v e).upc ∧
      (e.busy = true → (engineAfter m c v e).busy = false →
        (engineAfter m c v e').status = (engineAfter m c v e).status) := by
  cases m with
  | chklen =>
    have hlen : e'.len = e.len := ho
    simp only [engineAfter, hlen]
    split <;> simp_all
  | payload =>
    obtain ⟨hidx, hlen⟩ : e'.idx = e.idx ∧ e'.len = e.len := ho
    simp only [engineAfter, hidx, hlen]
    split <;> simp_all
  | call k => simp only [engineAfter]; split <;> simp_all
  | _ => simp_all [engineAfter]

/-- `IDX` comes out alike when it went in alike. -/
theorem engineAfter_idx_congr (hm : m ≠ .chklen) (ho : SameOperands m e e') (hidx : e'.idx = e.idx) :
    (engineAfter m c v e').idx = (engineAfter m c v e).idx := by
  by_cases hp : m = .payload
  · subst hp
    obtain ⟨-, hlen⟩ : e'.idx = e.idx ∧ e'.len = e.len := ho
    simp only [engineAfter, hidx, hlen]
    split <;> rfl
  · rw [engineAfter_idx c v e' hm hp, engineAfter_idx c v e hm hp, hidx]

/-- After a micro-step that loads nothing, the next one does not use `x[T]`. -/
theorem usesT_engineAfter {i : Instr} (hrow : rowOf i e.upc = some m) (hl : m.loads = none)
    (hb : (engineAfter m c v e).busy = true) : usesT i (engineAfter m c v e).upc = false := by
  have hfit := rowOf_fits hrow
  cases m with
  | wbkRead r | setbRead r | poll1 r b | poll0 r b | pop | eval => cases hl
  | finish => cases hb
  | wbkWrite r | setbWrite r b | push o | wr r w | w1c r b => simp_all [fitsTable, engineAfter]
  | chklen =>
    rw [(engineAfter_chklen hb).2]
    cases i <;> rfl
  | payload =>
    obtain ⟨-, hn⟩ := row_payload_iff.1 hrow
    simp only [engineAfter]
    split <;> simp only [hn] <;> cases i <;> rfl
  | call k | gpiods => cases i <;> simp_all [fitsTable, usesT, Instr.opcode]

end

/-! ### HOST's next action leaves everything but its own list and the port -/

@[simp] theorem hostTurn_eng (s : State) : (hostTurn s).eng = s.eng := by
  unfold hostTurn
  split <;> rfl

@[simp] theorem hostTurn_cfg (s : State) : (hostTurn s).cfg = s.cfg := by
  unfold hostTurn
  split <;> rfl

@[simp] theorem hostTurn_payload (s : State) : (hostTurn s).payload = s.payload := by
  unfold hostTurn
  split <;> rfl

@[simp] theorem hostTurn_env (s : State) : (hostTurn s).env = s.env := by
  unfold hostTurn
  split <;> rfl

theorem hostTurn_withEng (s : State) (e : Engine) : hostTurn (s.withEng e) = (hostTurn s).withEng e := by
  unfold hostTurn
  rw [withEng_host]
  split <;> rfl

/-! ### Nothing carries over (10_state.md R50) -/

/-- What `Agree` asks of the two engines. -/
abbrev EngAgree (e e' : Engine) : Prop :=
  e.busy = e'.busy ∧
    (e.busy = true →
      latched e = latched e' ∧ e.upc = e'.upc ∧
        ∀ i, latched e = some i →
          (usesT i e.upc = true → e.t = e'.t) ∧ (i.opcode = 0x02#8 → e.upc ≠ chkStep → e.idx = e'.idx))

theorem agree_withEng {s : State} {e : Engine} : Agree s (s.withEng e) ↔ EngAgree s.eng e := by
  constructor
  · rintro ⟨-, -, -, -, -, -, -, -, -, -, -, h⟩
    exact h
  · intro h
    exact ⟨rfl, rfl, rfl, rfl, rfl, rfl, rfl, rfl, rfl, rfl, rfl, h⟩

/-- States that agree differ in the engine only. -/
theorem Agree.eq_withEng {s s' : State} (h : Agree s s') : s' = s.withEng s'.eng := by
  obtain ⟨h1, h2, h3, h4, h5, h6, h7, h8, h9, h10, h11, -⟩ := h
  cases s'
  simp only at h1 h2 h3 h4 h5 h6 h7 h8 h9 h10 h11
  simp [State.withEng, *]

/-- Two engines that hold one command hold the same operands of it (30_encoding.md R102 to R104). -/
theorem operands_of_latched {e e' : Engine} {i : Instr} (hl : latched e = some i) (hl' : latched e' = some i) :
    (i.opcode ≠ 0x04#8 → e'.addr = e.addr ∧ e'.reg = e.reg) ∧ (i.opcode = 0x01#8 → e'.val = e.val) ∧
      (i.opcode = 0x02#8 → e'.len = e.len) ∧ (i.opcode = 0x04#8 → e'.speed = e.speed) := by
  cases i with
  | regwr addr reg val => simp [Instr.opcode, latched_regwr hl, latched_regwr hl']
  | bufwr addr reg len => simp [Instr.opcode, latched_bufwr hl, latched_bufwr hl']
  | regrd addr reg => simp [Instr.opcode, latched_regrd hl, latched_regrd hl']
  | init speed => simp [Instr.opcode, latched_init hl, latched_init hl']

/-- Engines that agree hold the same operands for the next micro-step. -/
theorem EngAgree.sameOperands {e e' : Engine} {i : Instr} {m : MicroStep} (ha : EngAgree e e') (hb : e.busy = true)
    (hl : latched e = some i) (hrow : rowOf i e.upc = some m) : SameOperands m e e' := by
  obtain ⟨hlatched, -, huses⟩ := ha.2 hb
  obtain ⟨ht, hidx⟩ := huses i hl
  obtain ⟨haddr, hval, hlen, hspeed⟩ := operands_of_latched hl (hlatched ▸ hl)
  have hfit := rowOf_fits hrow
  cases m with
  | wbkWrite r | setbWrite r b =>
    simp only [fitsTable, Bool.and_eq_true] at hfit
    exact (ht hfit.1.1).symm
  | push o =>
    simp only [fitsTable, Bool.and_eq_true, Bool.or_eq_true, bne_iff_ne, beq_iff_eq] at hfit
    obtain ⟨⟨⟨hop, hreads⟩, -⟩, -⟩ := hfit
    obtain ⟨ha, hr⟩ := haddr hop
    cases o with
    | addr => exact ha
    | reg => exact hr
    | val => exact hval (hreads.resolve_left (absurd rfl))
    | addrRead => exact congrArg readAddress ha
  | chklen => exact hlen (row_chklen_iff.1 hrow).1
  | payload =>
    obtain ⟨hop, hn⟩ := row_payload_iff.1 hrow
    exact ⟨(hidx hop (by simp [hn, chkStep])).symm, hlen hop⟩
  | call k =>
    simp only [fitsTable, Bool.and_eq_true, beq_iff_eq] at hfit
    exact hspeed hfit.1
  | _ => trivial

/-- Engines that agree still agree after the next micro-step, the environment having answered both alike. -/
theorem EngAgree.after_microStep {e e' : Engine} {i : Instr} {m : MicroStep} (ha : EngAgree e e') (hb : e.busy = true)
    (hl : latched e = some i) (hrow : rowOf i e.upc = some m) (c : Config) (v : Word) :
    EngAgree (engineAfter m c v e) (engineAfter m c v e') := by
  have ho := ha.sameOperands hb hl hrow
  obtain ⟨hlatched, hupc, huses⟩ := ha.2 hb
  obtain ⟨hbusy', hupc', -⟩ := engineAfter_congr (c := c) (v := v) ho ha.1.symm hupc.symm
  refine ⟨hbusy'.symm, fun hb' => ⟨by simpa using hlatched, hupc'.symm, fun j hj => ?_⟩⟩
  obtain rfl : i = j := by simpa [hl] using hj
  refine ⟨fun hT => ?_, fun hop hchk => ?_⟩
  · by_cases hloads : m.loads = none
    · rw [usesT_engineAfter hrow hloads hb'] at hT
      cases hT
    · rw [engineAfter_t_of_loads c v e hloads, engineAfter_t_of_loads c v e' hloads]
  · by_cases hm : m = .chklen
    · subst hm
      rw [(engineAfter_chklen hb').1, (engineAfter_chklen (hbusy'.trans hb')).1]
    · have hn : e.upc ≠ chkStep := fun hn =>
        hm (Option.some.inj (hrow.symm.trans (row_chklen_iff.2 ⟨hop, hn⟩)))
      exact (engineAfter_idx_congr hm ho ((huses i hl).2 hop hn).symm).symm

/-- What the statement asks of two next states that agree, the first having come from a state with engine `e`. -/
abbrev StepAgrees (e : Engine) (t t' : State) : Prop :=
  Agree t t' ∧ (e.busy = true → t.eng.busy = false → t.eng.status = t'.eng.status) ∧
    (e.busy = true → e.op = 0x03#8 → e.upc = 20 → t.eng.rdata = t'.eng.rdata)

section
variable {s : State} {e : Engine}

/-- A step of an idle engine: only the agreement counts. -/
theorem StepAgrees.of_idle {e0 : Engine} {t t' : State} (h : ¬ e0.busy = true) (ha : Agree t t') : StepAgrees e0 t t' :=
  ⟨ha, fun hb => absurd hb h, fun hb => absurd hb h⟩

theorem runRow_lockstep {i : Instr} (ha : EngAgree s.eng e) (hw : s.cfg.wf = true) (hb : s.eng.busy = true)
    (hl : latched s.eng = some i) :
    Lockstep (StepAgrees s.eng) (runRow (rowOf i) s) (runRow (rowOf i) (s.withEng e)) := by
  obtain ⟨-, hupc, -⟩ := ha.2 hb
  simp only [runRow, withEng_eng, ← hupc]
  split
  · rename_i m hrow
    have ho := ha.sameOperands hb hl hrow
    refine (microStep_lockstep hw ho).mono ?_
    rintro t _ ⟨v, ht, rfl, -⟩
    obtain ⟨-, -, hstatus⟩ := engineAfter_congr (c := s.cfg) (v := v) ho ha.1.symm hupc.symm
    refine ⟨agree_withEng.2 ?_, ?_, ?_⟩
    · rw [ht]
      exact ha.after_microStep hb hl hrow s.cfg v
    · rw [ht]
      exact fun _ hidle => (hstatus hb hidle).symm
    · intro _ hop hn
      rw [latched_opcode hl] at hop
      obtain rfl : m = .pop := Option.some.inj (hrow.symm.trans (row_pop_iff.2 ⟨hop, hn⟩))
      rw [ht]
      rfl
  · exact .fault _

theorem issue_agree (i : Instr) : Agree (s.issue i) ((s.withEng e).issue i) := by
  refine agree_withEng (e := ((s.withEng e).issue i).eng).2 ⟨rfl, fun _ => ⟨?_, rfl, fun j hj => ?_⟩⟩
  · rw [latched_issue, latched_issue]
  · obtain rfl : i = j := by simpa using hj
    cases i <;> simp [usesT, firstStep, chkStep, Instr.opcode]

theorem exec_lockstep (i : Instr) (ha : EngAgree s.eng e) :
    Lockstep (StepAgrees s.eng) (exec i s) (exec i (s.withEng e)) := by
  simp only [exec_eq, runCommand, withEng_cfg, withEng_eng, ← ha.1]
  split
  · rename_i hw
    split
    · rename_i hb
      simp only [← (ha.2 hb).1]
      split
      · exact runRow_lockstep ha hw hb ‹_›
      · exact .refused _
    · exact .next (.of_idle ‹_› (issue_agree i))
  · exact .refused _

theorem hostAct_lockstep (a : HostAction) (ha : EngAgree s.eng e) :
    Lockstep (StepAgrees s.eng) (hostAct a s) (hostAct a (s.withEng e)) := by
  cases a with
  | present bytes =>
    simp only [hostAct, present, withEng_eng, ← ha.1]
    split
    · exact .refused _
    · split
      · exact exec_lockstep _ ha
      · exact .refused _
  | storeByte i b =>
    simp only [hostAct, withEng_eng, withEng_cfg, ← ha.1]
    split
    · exact .refused _
    · by_cases hi : i < s.cfg.bufcap
      · simp only [hi, reduceIte]
        exact .next (.of_idle ‹_› (agree_withEng.2 ha))
      · simp only [hi, reduceIte]
        exact .fault _
  | passBuffer buf | foreignAccess =>
    simp only [hostAct, withEng_eng, ← ha.1]
    split
    · exact .refused _
    · exact .next (.of_idle ‹_› (agree_withEng.2 ha))

theorem step_lockstep (ha : EngAgree s.eng e) : Lockstep (StepAgrees s.eng) (step s) (step (s.withEng e)) := by
  simp only [step, turn, withEng_input]
  split
  · exact hostAct_lockstep (s := { s with input := none }) _ ha
  · rw [withEng_eng, ← ha.1]
    split
    · rename_i hb
      simp only [resume, withEng_eng, ← (ha.2 hb).1]
      split
      · exact exec_lockstep _ ha
      · exact .fault _
    · rename_i hb
      rw [hostTurn_withEng]
      exact .next (.of_idle hb (agree_withEng.2 (by rwa [hostTurn_eng])))

end

/-- Settles O49: the two states differ in the engine only, a step sees of the engine what `Agree` compares, and the
environment answers both alike. -/
theorem nothingCarriesOver : Obligations.NothingCarriesOver := by
  intro s s' hagree
  have hs' := hagree.eq_withEng
  rw [hs'] at hagree ⊢
  have hlock := step_lockstep (agree_withEng.1 hagree)
  generalize step s = o, step (s.withEng s'.eng) = o' at hlock ⊢
  cases hlock with
  | next h => exact h
  | fault r => rfl
  | refused r => rfl

/-! ### Steps of an idle engine and of a busy one -/

/-- A step of an idle engine leaves the results and the configuration fields alone. -/
theorem step_idle_frame {s t : State} (h : step s = .next t) (hb : s.eng.busy = false) :
    t.eng.status = s.eng.status ∧ t.eng.rdata = s.eng.rdata ∧ t.env = s.env := by
  obtain ⟨-, -, -, i, rfl⟩ | ⟨-, i, b, -, -, rfl⟩ | ⟨-, buf, -, rfl⟩ | ⟨-, -, rfl⟩ | ⟨-, -, rfl⟩ | ⟨hbusy, -⟩ := step_next h
  · simp
  · exact ⟨rfl, rfl, rfl⟩
  · exact ⟨rfl, rfl, rfl⟩
  · exact ⟨rfl, rfl, rfl⟩
  · simp
  · rw [hb] at hbusy
    cases hbusy

/-- A step of a busy engine is a row of the latched command's table. -/
theorem step_busy {s t : State} (h : step s = .next t) (hb : s.eng.busy = true) :
    s.cfg.wf = true ∧ ∃ i m, latched s.eng = some i ∧ rowOf i s.eng.upc = some m ∧ microStep m s = .next t := by
  obtain ⟨hidle, -⟩ | ⟨hidle, -⟩ | ⟨hidle, -⟩ | ⟨hidle, -⟩ | ⟨hidle, -⟩ | ⟨-, -, hw, hrow⟩ := step_next h
  case inr.inr.inr.inr.inr => exact ⟨hw, hrow⟩
  all_goals
    rw [hb] at hidle
    cases hidle

/-- Settles O41: no micro-step writes a command register. -/
theorem commandRegistersConstantWhileBusy : Obligations.CommandRegistersConstantWhileBusy := by
  intro s t hb h
  obtain ⟨hw, i, m, -, -, hm⟩ := step_busy h hb
  have hframe := microStep_frame hw hm
  simp only [← hframe.op, ← hframe.addr, ← hframe.reg, ← hframe.val, ← hframe.len, ← hframe.speed]

/-- Settles O42: an idle engine keeps `STATUS`, and a micro-step that writes it clears `BUSY`. -/
theorem statusWrittenOnlyAtCompletion : Obligations.StatusWrittenOnlyAtCompletion := by
  intro s t h hne
  cases hb : s.eng.busy with
  | false => exact absurd (step_idle_frame h hb).1 hne
  | true =>
    obtain ⟨hw, i, m, -, -, hm⟩ := step_busy h hb
    obtain ⟨v, heng, -⟩ := microStep_engine hw hm
    rw [heng] at hne ⊢
    exact ⟨rfl, (engineAfter_status_or_idle m s.cfg v s.eng).resolve_left hne⟩

/-- Settles O44: `POP` alone writes `RDATA`, from the value it loads, and stands at REGRD's step 20 alone. -/
theorem rdataWrittenOnlyByPop : Obligations.RdataWrittenOnlyByPop := by
  intro s t h
  cases hb : s.eng.busy with
  | false => exact ⟨fun _ => (step_idle_frame h hb).2.1, fun hb' => by cases hb'⟩
  | true =>
    obtain ⟨hw, i, m, hl, hrow, hm⟩ := step_busy h hb
    obtain ⟨v, heng, htrace⟩ := microStep_engine hw hm
    have hop := latched_opcode hl
    rw [hop, heng]
    refine ⟨fun hnot => engineAfter_rdata s.cfg v s.eng ?_, fun _ hregrd hn => ⟨v, ?_⟩⟩
    · rintro rfl
      exact hnot ⟨rfl, row_pop_iff.1 hrow⟩
    · obtain rfl : m = .pop := Option.some.inj (hrow.symm.trans (row_pop_iff.2 ⟨hregrd, hn⟩))
      have hlow : lowByte v = v.extractLsb' 0 8 := BitVec.setWidth_eq_extractLsb' (by decide)
      exact ⟨htrace .fifo rfl, hlow⟩

/-! ### The configuration fields (10_state.md R44) -/

theorem loadT_env {r : Reg} {s t : State} {k : State → State} (hw : s.cfg.wf = true) (h : loadT r s k = .next t)
    (hk : ∀ s1 : State, (k s1).env = s1.env) : t.env = s.env := by
  obtain ⟨v, s1, hsame, -, rfl⟩ := loadT_next hw h
  rw [hk, setT_env, hsame.env]

theorem store_env {r : Reg} {v : Word} {s t : State} {k : State → State} (hw : s.cfg.wf = true)
    (h : store r v s k = .next t) (hk : ∀ s1 : State, (k s1).env = s1.env) : t.env = s.env := by
  obtain ⟨s1, hsame, -, rfl⟩ := store_next hw h
  rw [hk, hsame.env]

/-- Only a collaborator call or the GPIO action writes a configuration field. -/
theorem microStep_env {m : MicroStep} {s t : State} (hw : s.cfg.wf = true) (h : microStep m s = .next t)
    (hcall : ∀ k, m ≠ .call k) (hgpio : m ≠ .gpiods) : t.env = s.env := by
  cases m with
  | wbkRead r | setbRead r | pop | eval =>
    simp only [microStep, readHalf, pop, evalErrors] at h
    exact loadT_env hw h fun _ => rfl
  | poll1 r b | poll0 r b =>
    simp only [microStep, pollSet, pollClear] at h
    exact loadT_env hw h fun s1 => by split <;> rfl
  | wbkWrite r | setbWrite r b | push o | wr r v | w1c r b => exact store_env hw h fun _ => rfl
  | chklen =>
    simp only [microStep, chklen] at h
    split at h
    · cases h; rfl
    · split at h
      · cases h
      · cases h; rfl
  | payload =>
    simp only [microStep, payloadStep] at h
    split at h
    · obtain ⟨b, -, h⟩ := andThen_eq_next.1 h
      exact store_env hw h fun _ => rfl
    · cases h; rfl
  | call k => exact absurd rfl (hcall k)
  | gpiods => exact absurd rfl hgpio
  | finish => cases h; rfl

/-- Settles O45: the calls and the GPIO action stand at INIT's steps 0 to 4. -/
theorem configurationWrittenOnlyByInit : Obligations.ConfigurationWrittenOnlyByInit := by
  intro s t h hne
  cases hb : s.eng.busy with
  | false => exact absurd (step_idle_frame h hb).2.2 hne
  | true =>
    obtain ⟨hw, i, m, hl, hrow, hm⟩ := step_busy h hb
    have hfit := rowOf_fits hrow
    rw [latched_opcode hl]
    cases m with
    | call k | gpiods => simpa [fitsTable] using hfit
    | _ => exact absurd (microStep_env hw hm (by simp) (by simp)) hne

/-! ### The invariant -/

/-- A length check that lets the command go on has found `0 <= LEN <= FIFO_DEPTH - 2` (40_microops.md R140). -/
theorem chklen_next {s t : State} (h : microStep .chklen s = .next t) (hb : t.eng.busy = true) :
    0 ≤ s.eng.len.toInt ∧ s.eng.len.toInt ≤ (s.cfg.fifoDepth : Int) - 2 ∧ t = (s.setIdx 0#32).setUpc 0 := by
  simp only [microStep, chklen, lengthTooLong, lengthNegative, decide_eq_true_eq] at h
  split at h
  · cases h
    cases hb
  · split at h
    · cases h
    · cases h
      exact ⟨by omega, by omega, rfl⟩

/-- While `BUFWR` runs past its length check: `IDX` is 0 before the payload step, at most `LEN` at it, and `LEN` after it
(10_state.md R29, 40_microops.md R142 (b)). -/
def Counted (len idx : Word) (n : Nat) : Prop :=
  (idx.toNat : Int) ≤ len.toInt ∧ (n < 14 → idx = 0#32) ∧ (14 < n → idx = len)

/-- One more byte pushed, one more counted: `IDX` does not wrap below a signed length. -/
theorem counted_succ {len idx : Word} (h : (idx.toNat : Int) < len.toInt) : Counted len (idx + 1#32) 14 := by
  refine ⟨?_, by simp, by simp⟩
  have hlen := BitVec.toInt_lt (x := len)
  have hadd : (idx + 1#32).toNat = idx.toNat + 1 := by
    rw [BitVec.toNat_add]
    exact Nat.mod_eq_of_lt (by simp at hlen ⊢; omega)
  omega

/-- The payload step is left with all `LEN` bytes counted. -/
theorem counted_end {len idx : Word} (h : (idx.toNat : Int) ≤ len.toInt) (hend : ¬ (idx.toNat : Int) < len.toInt)
    (n : Nat) (hn : 14 ≤ n) : Counted len idx n := by
  refine ⟨h, fun hlt => absurd hlt (by omega), fun _ => BitVec.eq_of_toNat_eq ?_⟩
  have hcond := BitVec.toInt_eq_toNat_cond len
  split at hcond <;> omega

/-- A micro-step of BUFWR other than its length check keeps the count. -/
theorem counted_engineAfter {i : Instr} {m : MicroStep} {c : Config} {v : Word} {e : Engine} (hop : i.opcode = 0x02#8)
    (hrow : rowOf i e.upc = some m) (hm : m ≠ .chklen) (hc : Counted e.len e.idx e.upc) :
    Counted e.len (engineAfter m c v e).idx (engineAfter m c v e).upc := by
  obtain ⟨hle, hbefore, hafter⟩ := hc
  by_cases hp : m = .payload
  · subst hp
    obtain ⟨-, hn⟩ := row_payload_iff.1 hrow
    simp only [engineAfter]
    split
    · rename_i hleft
      simpa [hn] using counted_succ hleft
    · rename_i hend
      exact counted_end hle hend _ (by simp [hn])
  · have hn : e.upc ≠ 14 := fun hn => hp (Option.some.inj (hrow.symm.trans (row_payload_iff.2 ⟨hop, hn⟩)))
    rw [engineAfter_idx c v e hm hp]
    have hupc := engineAfter_upc c v e hm
    exact ⟨hle, fun h => hbefore (by omega), fun h => hafter (by omega)⟩

/-- `InTable`, read off the latched command. -/
theorem inTable_iff {s : State} {i : Instr} (hl : latched s.eng = some i) :
    InTable s ↔ if i.opcode = 0x02#8 then
        s.eng.upc = chkStep ∨ (s.eng.upc ≤ 19 ∧ 0 ≤ s.eng.len.toInt ∧ s.eng.len.toInt ≤ (s.cfg.fifoDepth : Int) - 2 ∧
          Counted s.eng.len s.eng.idx s.eng.upc)
      else s.eng.upc ≤ lastStep i := by
  cases i with
  | bufwr addr reg len => simp [InTable, hl, Instr.opcode, Counted, (latched_bufwr hl).2.2]
  | _ => simp [InTable, hl, Instr.opcode, lastStep]

/-- A command issued stands at its table's first step. -/
theorem issue_inTable (s : State) (i : Instr) : InTable (s.issue i) := by
  rw [inTable_iff (latched_issue s i)]
  cases i <;> simp [Instr.opcode, firstStep, lastStep]

/-- A micro-step that does not complete the command stays in its table. -/
theorem microStep_inTable {s t : State} {i : Instr} {m : MicroStep} (hw : s.cfg.wf = true) (hin : InTable s)
    (hl : latched s.eng = some i) (hrow : rowOf i s.eng.upc = some m) (h : microStep m s = .next t)
    (hb : t.eng.busy = true) : InTable t := by
  have hframe := microStep_frame hw h
  obtain ⟨v, heng, -⟩ := microStep_engine hw h
  rw [inTable_iff (hframe.latched.trans hl)]
  rw [inTable_iff hl] at hin
  by_cases hm : m = .chklen
  · subst hm
    obtain ⟨hnonneg, hlong, rfl⟩ := chklen_next h hb
    rw [if_pos (row_chklen_iff.1 hrow).1]
    exact .inr ⟨by simp, hnonneg, hlong, by simpa using hnonneg, by simp, by simp⟩
  · have hupc : t.eng.upc ≤ lastStep i := by
      rw [heng] at hb ⊢
      exact engineAfter_upc_le hrow hm hb
    split
    · rename_i hop
      rw [if_pos hop] at hin
      obtain hchk | ⟨-, hnonneg, hlong, hcount⟩ := hin
      · exact absurd (Option.some.inj (hrow.symm.trans (row_chklen_iff.2 ⟨hop, hchk⟩))) hm
      · rw [hframe.len, hframe.cfg]
        refine .inr ⟨?_, hnonneg, hlong, ?_⟩
        · cases i <;> simp [Instr.opcode] at hop
          exact hupc
        · rw [heng]
          exact counted_engineAfter hop hrow hm hcount
    · exact hupc

/-- Settles O38: HOST's actions keep the buffer's form, issue starts a table, and a micro-step stays in it. -/
theorem everyStepKeepsTheInvariant : Obligations.EveryStepKeepsTheInvariant := by
  rintro s t ⟨hw, ⟨hpayload, hbelow⟩, hin⟩ h
  obtain ⟨-, -, -, i, rfl⟩ | ⟨hidle, i, b, -, hi, rfl⟩ | ⟨hidle, buf, -, rfl⟩ | ⟨hidle, -, rfl⟩ | ⟨hidle, -, rfl⟩ |
    ⟨hb, -, -, i, m, hl, hrow, hm⟩ := step_next h
  · exact ⟨hw, ⟨hpayload, hbelow⟩, fun _ => issue_inTable _ i⟩
  · refine ⟨hw, ⟨Memory.write_wf hpayload i b, fun x hx => ?_⟩, hin⟩
    obtain rfl | hx := Memory.mem_write hx
    · exact hi
    · exact hbelow x hx
  · exact ⟨hw, ⟨Memory.ofBuffer_wf _ buf, fun x hx => Memory.mem_ofBuffer hx⟩, hin⟩
  · exact ⟨hw, ⟨hpayload, hbelow⟩, hin⟩
  · refine ⟨by simpa using hw, ⟨by simpa using hpayload, by simpa using hbelow⟩, ?_⟩
    rw [hostTurn_eng, hidle]
    exact fun hb => by cases hb
  · have hframe := microStep_frame hw hm
    refine ⟨hframe.cfg ▸ hw, ⟨hframe.payload ▸ hpayload, ?_⟩, microStep_inTable hw (hin hb) hl hrow hm⟩
    rw [hframe.payload, hframe.cfg]
    exact hbelow

end Sys2Proof.Machine

/-! Proofs of the statements of 20_memory.md on the register space, the payload buffer space and the script of the mock
(R60 to R81). -/

namespace Sys2Proof.Machine

/-! ### The constraints of 00_scope.md R7, one by one -/

theorem wf_iff {c : Config} :
    c.wf = true ↔ c.depthOk = true ∧ c.bufcapOk = true ∧ c.offsetsDistinct = true ∧ c.offsetsAligned = true ∧
      c.mctrlMasksOk = true ∧ c.flushMasksOk = true ∧ c.flagMasksOk = true ∧ c.statusesOk = true ∧
      c.gpioMaskOk = true := by
  simp only [Config.wf, Bool.and_eq_true, and_assoc]

/-! ### The address map (20_memory.md R60, R78, R80) -/

theorem regAddr_injective {c : Config} (h : c.wf = true) : Function.Injective (regAddr c) := by
  intro r r' hr
  have hat := regAt_regAddr h r
  rw [hr, regAt_regAddr h r'] at hat
  exact (Option.some.inj hat).symm

theorem mem_regAll (r : Reg) : r ∈ Reg.all := by
  cases r <;> decide

/-- The offsets are multiples of 4 (00_scope.md R7). -/
theorem offset_mod_four {c : Config} (h : c.wf = true) (r : Reg) : c.offset r % 4 = 0 := by
  obtain ⟨-, -, -, haligned, -⟩ := wf_iff.1 h
  simp only [Config.offsetsAligned, List.all_eq_true, beq_iff_eq] at haligned
  exact haligned r (mem_regAll r)

theorem regAt_eq_none {c : Config} {a : Nat} (h : ∀ r, regAddr c r ≠ a) : regAt c a = none := by
  simpa [regAt] using fun r _ => h r

/-- Settles O18: a register stands at its own address, and the offsets are multiples of 4. -/
theorem onlyTheSevenRegistersAnswer : Obligations.OnlyTheSevenRegistersAnswer := by
  intro s hw
  refine ⟨fun r r' h => regAddr_injective hw h, fun r => ?_, fun a v hnone => ?_⟩
  · have := offset_mod_four hw r
    omega
  · have hat : regAt s.cfg a = none := regAt_eq_none hnone
    simp [memRead, memWrite, hat]

/-! ### Who writes the payload buffer (20_memory.md R62) -/

/-- Settles O47: HOST's two actions write the payload, and neither issue nor a micro-step does. -/
theorem engineWritesNeitherPayloadNorParameters : Obligations.EngineWritesNeitherPayloadNorParameters := by
  intro s t h
  obtain ⟨-, -, -, i, rfl⟩ | ⟨hidle, i, b, hin, -, rfl⟩ | ⟨hidle, buf, hin, rfl⟩ | ⟨-, -, rfl⟩ | ⟨-, -, rfl⟩ |
    ⟨-, -, hw, i, m, -, -, hm⟩ := step_next h
  · exact ⟨rfl, fun hne => absurd rfl hne⟩
  · exact ⟨rfl, fun _ => ⟨hidle, .inl ⟨i, b, hin, rfl⟩⟩⟩
  · exact ⟨rfl, fun _ => ⟨hidle, .inr ⟨buf, hin, rfl⟩⟩⟩
  · exact ⟨rfl, fun hne => absurd rfl hne⟩
  · exact ⟨hostTurn_cfg s, fun hne => absurd (hostTurn_payload s) hne⟩
  · have hframe := microStep_frame hw hm
    exact ⟨hframe.cfg, fun hne => absurd hframe.payload hne⟩

/-! ### Progress (20_memory.md R72, 40_microops.md R130) -/

theorem fifoDepth_le_bufcap {c : Config} (h : c.wf = true) : c.fifoDepth - 2 ≤ c.bufcap := by
  obtain ⟨-, hcap, -⟩ := wf_iff.1 h
  simpa [Config.bufcapOk] using hcap

/-- Every step of a command up to its last one, and `CHK` of BUFWR, has a row. -/
theorem rowOf_isSome {i : Instr} {n : Nat} (h : n ≤ lastStep i ∨ (i.opcode = 0x02#8 ∧ n = chkStep)) :
    ∃ m, rowOf i n = some m := by
  obtain hn | ⟨hop, rfl⟩ := h
  · have hall : ((List.range (lastStep i + 1)).all fun k => (rowOf i k).isSome) = true := by cases i <;> rfl
    exact Option.isSome_iff_exists.1 (List.all_eq_true.1 hall n (List.mem_range.2 (by omega)))
  · exact ⟨_, row_chklen_iff.2 ⟨hop, rfl⟩⟩

/-- A read of the payload buffer space below its end answers the byte HOST has written. -/
theorem bufRead_written {s : State} {k : Nat} (hk : k < s.cfg.bufcap) {b : Byte} (hb : s.payload.read k = some b) :
    bufRead k s = .next b := by
  simp [bufRead, hk, hb]

theorem bufRead_unwritten {s : State} {k : Nat} (hk : k < s.cfg.bufcap) (hb : s.payload.read k = none) :
    bufRead k s = .refused .unwrittenBufferByte := by
  simp [bufRead, hk, hb]

/-- Under the unconstrained environment a micro-step always answers, but for a negative length (40_microops.md R140) and
a payload byte not written (20_memory.md R62). -/
theorem microStep_free {m : MicroStep} {s : State} (hw : s.cfg.wf = true) (hm : s.mock = none)
    (hchk : m = .chklen → lengthTooLong s = true ∨ lengthNegative s = false)
    (hpay : m = .payload → payloadLeft s = true → ∃ b, bufRead s.eng.idx.toNat s = .next b) :
    ∃ t, microStep m s = .next t := by
  cases m with
  | wbkRead r | setbRead r | poll1 r b | poll0 r b | pop | eval =>
    simp only [microStep, readHalf, pollSet, pollClear, pop, evalErrors]
    exact ⟨_, loadT_free hw hm _ _⟩
  | wbkWrite r | setbWrite r b | push o | wr r v | w1c r b => exact ⟨_, store_free hw hm _ _ _⟩
  | chklen =>
    simp only [microStep, chklen]
    split
    · exact ⟨_, rfl⟩
    · rename_i hlong
      rw [if_neg (by simpa using (hchk rfl).resolve_left hlong)]
      exact ⟨_, rfl⟩
  | payload =>
    simp only [microStep, payloadStep]
    split
    · rename_i hleft
      obtain ⟨b, hb⟩ := hpay rfl hleft
      rw [hb]
      exact ⟨_, store_free hw hm _ _ _⟩
    · exact ⟨_, rfl⟩
  | call k =>
    simp only [microStep, callStep]
    split <;> exact ⟨_, rfl⟩
  | gpiods | finish => exact ⟨_, rfl⟩

/-- Settles O39: inside its table the command has a row, and the row answers. -/
theorem engineAlwaysHasItsNextMicroStep : Obligations.EngineAlwaysHasItsNextMicroStep := by
  rintro s i ⟨hw, -, hin⟩ hb hl hm hlen
  have htable := (inTable_iff hl).1 (hin hb)
  have hbufwr (hop : i.opcode = 0x02#8) (hle : s.eng.len.toInt ≤ (s.cfg.fifoDepth : Int) - 2) :
      0 ≤ s.eng.len.toInt ∧ ∀ k : Nat, (k : Int) < s.eng.len.toInt → (s.payload.read k).isSome = true := by
    cases i with
    | bufwr addr reg len =>
      rw [(latched_bufwr hl).2.2] at hle ⊢
      exact hlen addr reg len rfl hle
    | _ => cases hop
  have hsome : ∃ m, rowOf i s.eng.upc = some m := by
    refine rowOf_isSome ?_
    split at htable
    · rename_i hop
      obtain hchk | ⟨hle, -⟩ := htable
      · exact .inr ⟨hop, hchk⟩
      · refine .inl ?_
        cases i with
        | bufwr addr reg len => exact hle
        | _ => cases hop
    · exact .inl htable
  obtain ⟨m, hrow⟩ := hsome
  rw [exec_row ⟨hw, hb, hl, rfl⟩ hrow]
  refine microStep_free hw hm ?_ ?_
  · rintro rfl
    by_cases hlong : lengthTooLong s = true
    · exact .inl hlong
    · simp only [lengthTooLong, decide_eq_true_eq] at hlong
      have hnonneg := (hbufwr (row_chklen_iff.1 hrow).1 (by omega)).1
      exact .inr (by simpa [lengthNegative] using hnonneg)
  · rintro rfl hleft
    obtain ⟨hop, hn⟩ := row_payload_iff.1 hrow
    rw [if_pos hop] at htable
    obtain hchk | ⟨-, -, hle, -⟩ := htable
    · rw [hn] at hchk
      cases hchk
    · simp only [payloadLeft, decide_eq_true_eq] at hleft
      obtain ⟨b, hread⟩ := Option.isSome_iff_exists.1 ((hbufwr hop hle).2 _ hleft)
      have := fifoDepth_le_bufcap hw
      exact ⟨b, bufRead_written (by omega) hread⟩

/-! ### A buffer shorter than the length (20_memory.md R62, 43_bufwr.md R174 (b)) -/

theorem bufRead_next {k : Nat} {s : State} {b : Byte} (h : bufRead k s = .next b) : s.payload.read k = some b := by
  unfold bufRead at h
  split at h
  · split at h
    · cases h
      assumption
    · cases h
  · cases h

/-- A payload step that pushes has found its byte written. -/
theorem payload_next {s t : State} (h : microStep .payload s = .next t) (hleft : payloadLeft s = true) :
    ∃ b, s.payload.read s.eng.idx.toNat = some b := by
  simp only [microStep, payloadStep, hleft, reduceIte] at h
  obtain ⟨b, hb, -⟩ := andThen_eq_next.1 h
  exact ⟨b, bufRead_next hb⟩

/-- BUFWR running over a buffer that is shorter than its admitted length: it has pushed at most the buffer. -/
structure ShortRun (addr reg : Byte) (len : Word) (buf : List Byte) (u : State) : Prop where
  busy : u.eng.busy = true
  latched : latched u.eng = some (.bufwr addr reg len)
  payload : u.payload = Memory.ofBuffer u.cfg.bufcap buf
  short : (buf.length : Int) < len.toInt
  admitted : len.toInt ≤ (u.cfg.fifoDepth : Int) - 2
  inTable : InTable u
  pushed : u.eng.upc ≠ chkStep → u.eng.idx.toNat ≤ buf.length

section
variable {addr reg : Byte} {len : Word} {buf : List Byte} {u u' : State}

/-- The payload step is not left, for `IDX` has not reached `LEN`. -/
theorem ShortRun.upc_le (h : ShortRun addr reg len buf u) (hn : u.eng.upc ≠ chkStep) : u.eng.upc ≤ 14 := by
  by_contra hgt
  have hlen := (latched_bufwr h.latched).2.2
  obtain hchk | ⟨-, -, -, -, -, hafter⟩ := (inTable_iff h.latched).1 h.inTable
  · exact hn hchk
  · have hidx : u.eng.idx = len := hlen ▸ hafter (by omega)
    have hpushed := h.pushed hn
    have hshort := h.short
    have hcond := BitVec.toInt_eq_toNat_cond len
    rw [hidx] at hpushed
    split at hcond <;> omega

/-- No row that such a run reaches completes the command. -/
theorem ShortRun.stays_busy (h : ShortRun addr reg len buf u) {m : MicroStep}
    (hrow : rowOf (.bufwr addr reg len) u.eng.upc = some m) (v : Word) :
    (engineAfter m u.cfg v u.eng).busy = true := by
  have hfit := rowOf_fits hrow
  cases m with
  | eval =>
    have hlast : u.eng.upc = 19 := by simpa [fitsTable, lastStep] using hfit
    have := h.upc_le (by simp [hlast, chkStep])
    omega
  | chklen =>
    have hadmitted := h.admitted
    rw [← (latched_bufwr h.latched).2.2] at hadmitted
    simp only [engineAfter]
    rw [if_neg (by omega)]
    exact h.busy
  | call k | finish => simp [fitsTable, Instr.opcode] at hfit
  | payload =>
    simp only [engineAfter]
    split <;> exact h.busy
  | _ => exact h.busy

/-- A byte is pushed from the buffer only. -/
theorem ShortRun.pushed_after (h : ShortRun addr reg len buf u) {m : MicroStep}
    (hrow : rowOf (.bufwr addr reg len) u.eng.upc = some m) (hm : microStep m u = .next u') (v : Word) :
    (engineAfter m u.cfg v u.eng).idx.toNat ≤ buf.length := by
  by_cases hchk : m = .chklen
  · subst hchk
    simp [(engineAfter_chklen (h.stays_busy hrow v)).1]
  have hn : u.eng.upc ≠ chkStep := fun hn =>
    hchk (Option.some.inj (hrow.symm.trans (row_chklen_iff.2 ⟨rfl, hn⟩)))
  by_cases hpay : m = .payload
  · subst hpay
    simp only [engineAfter]
    split
    · rename_i hleft
      obtain ⟨b, hread⟩ := payload_next hm (by simpa [payloadLeft] using hleft)
      rw [h.payload, Memory.read_ofBuffer] at hread
      split at hread
      · have := (List.getElem?_eq_some_iff.1 hread).1
        rw [BitVec.toNat_add]
        exact (Nat.mod_le _ _).trans this
      · cases hread
    · exact h.pushed hn
  · rw [engineAfter_idx _ _ _ hchk hpay]
    exact h.pushed hn

/-- Every step keeps such a run going. -/
theorem ShortRun.step (h : ShortRun addr reg len buf u) (hstep : step u = .next u') :
    ShortRun addr reg len buf u' := by
  obtain ⟨hw, i, m, hl, hrow, hm⟩ := step_busy hstep h.busy
  obtain rfl : Instr.bufwr addr reg len = i := Option.some.inj (h.latched.symm.trans hl)
  have hframe := microStep_frame hw hm
  obtain ⟨v, heng, -⟩ := microStep_engine hw hm
  have hb : u'.eng.busy = true := heng ▸ h.stays_busy hrow v
  exact {
    busy := hb
    latched := hframe.latched.trans hl
    payload := by rw [hframe.payload, hframe.cfg, h.payload]
    short := h.short
    admitted := by rw [hframe.cfg]; exact h.admitted
    inTable := microStep_inTable hw h.inTable hl hrow hm hb
    pushed := fun _ => heng ▸ h.pushed_after hrow hm v }

theorem ShortRun.stepN (h : ShortRun addr reg len buf u) (n : Nat) (hrun : stepN n u = .next u') :
    ShortRun addr reg len buf u' := by
  induction n generalizing u with
  | zero =>
    cases hrun
    exact h
  | succ n ih =>
    rw [stepN_succ] at hrun
    obtain ⟨u1, hstep, hrest⟩ := andThen_eq_next.1 hrun
    exact ih (h.step hstep) hrest

end

/-- On an idle engine a whole run is the issue and then the steps. -/
theorem issueAndRun_idle {i : Instr} {s : State} (h : Idle s) (n : Nat) : issueAndRun i n s = stepN n (s.issue i) := by
  rw [issueAndRun, exec_idle h, andThen_next]

/-- A BUFWR issued over such a buffer never completes. -/
theorem bufwr_short_stays_busy {addr reg : Byte} {len : Word} {buf : List Byte} {t u : State} {n : Nat} (ht : Idle t)
    (hpayload : t.payload = Memory.ofBuffer t.cfg.bufcap buf) (hshort : (buf.length : Int) < len.toInt)
    (hadmitted : len.toInt ≤ (t.cfg.fifoDepth : Int) - 2)
    (hrun : issueAndRun (.bufwr addr reg len) n t = .next u) : u.eng.busy = true := by
  rw [issueAndRun_idle ht] at hrun
  have hissued : ShortRun addr reg len buf (t.issue (.bufwr addr reg len)) :=
    ⟨rfl, rfl, hpayload, hshort, hadmitted, issue_inTable _ _, fun hn => absurd rfl hn⟩
  exact (hissued.stepN n hrun).busy

/-- The payload step that has pushed the whole of such a buffer is refused. -/
theorem bufwr_short_refused {addr reg : Byte} {len : Word} {buf : List Byte} {u : State}
    (hu : Running (.bufwr addr reg len) 14 u) (hpayload : u.payload = Memory.ofBuffer u.cfg.bufcap buf)
    (hshort : (buf.length : Int) < len.toInt) (hadmitted : len.toInt ≤ (u.cfg.fifoDepth : Int) - 2)
    (hidx : u.eng.idx.toNat = buf.length) :
    exec (.bufwr addr reg len) u = .refused .unwrittenBufferByte := by
  have ⟨hw, _, hl, _⟩ := hu
  have hleft : payloadLeft u = true := by simpa [payloadLeft, hidx, (latched_bufwr hl).2.2] using hshort
  have hcap : u.eng.idx.toNat < u.cfg.bufcap := by
    have := fifoDepth_le_bufcap hw
    omega
  have hread : u.payload.read u.eng.idx.toNat = none := by
    rw [hpayload, hidx, Memory.read_ofBuffer]
    simp
  rw [exec_row hu (row_payload_iff.2 ⟨rfl, rfl⟩)]
  simp [microStep, payloadStep, hleft, bufRead_unwritten hcap hread]

/-- Settles O33: the run keeps `IDX` within the buffer, so it neither leaves the payload step nor gets past its end. -/
theorem shortBufferIsRefused : Obligations.ShortBufferIsRefused := by
  rintro s addr reg len buf ⟨hw, hidle⟩ hin hshort hadmitted
  refine ⟨{ s with input := none, payload := Memory.ofBuffer s.cfg.bufcap buf }, ?_, ?_, ?_⟩
  · simp [step, turn, hin, hostAct, hidle]
  · intro n u hrun
    refine bufwr_short_stays_busy ?_ ?_ hshort ?_ hrun
    · exact ⟨hw, hidle⟩
    · rfl
    · exact hadmitted
  · intro u hu hcfg hpayload hidx
    exact bufwr_short_refused hu (hcfg ▸ hpayload) hshort (hcfg ▸ hadmitted) hidx

/-! ### Single-bit masks -/

theorem singleBit_eq_twoPow {m : Word} (h : singleBit m = true) : ∃ k, m = BitVec.twoPow 32 k := by
  simp only [singleBit, Bool.and_eq_true, bne_iff_ne, beq_iff_eq] at h
  obtain ⟨hne, hand⟩ := h
  have hpos : m.toNat ≠ 0 := fun h0 => hne (BitVec.eq_of_toNat_eq h0)
  have hsub : (m - 1#32).toNat = m.toNat - 1 := by
    have := m.isLt
    rw [BitVec.toNat_sub_of_le (by simp [BitVec.le_def]; omega)]
    rfl
  have hnat : m.toNat &&& (m.toNat - 1) = 0 := by
    rw [← hsub, ← BitVec.toNat_and, hand]
    rfl
  obtain ⟨k, hk⟩ := (Nat.ne_zero_and_sub_one_eq_zero_iff_isPowerOfTwo).1 ⟨hpos, hnat⟩
  refine ⟨k, BitVec.eq_of_toNat_eq ?_⟩
  rw [BitVec.toNat_twoPow, ← hk, Nat.mod_eq_of_lt m.isLt]

/-- A word has a single-bit mask's bit or it has not. -/
theorem and_singleBit {m : Word} (h : singleBit m = true) (w : Word) :
    w &&& m = if anySet w m then m else 0#32 := by
  obtain ⟨k, rfl⟩ := singleBit_eq_twoPow h
  cases hw : w.getLsbD k <;> simp_all [BitVec.and_twoPow, anySet]

theorem singleBit_ne_zero {m : Word} (h : singleBit m = true) : m ≠ 0#32 := by
  rintro rfl
  cases h

/-- Two different single-bit masks have no bit in common. -/
theorem singleBit_disjoint {m m' : Word} (h : singleBit m = true) (h' : singleBit m' = true) (hne : m ≠ m') :
    m &&& m' = 0#32 := by
  have hm' := and_singleBit h' m
  have hm := and_singleBit h m'
  rw [BitVec.and_comm] at hm
  split at hm'
  · split at hm
    · exact absurd (hm.symm.trans hm') hne
    · exact hm
  · exact hm'

/-! ### The error word of a script (20_memory.md R81) -/

theorem singleBit_of_mem_errMasks {c : Config} (h : c.wf = true) {m : Word} (hm : m ∈ c.errMasks) :
    singleBit m = true := by
  obtain ⟨-, -, -, -, -, -, hflags, -⟩ := wf_iff.1 h
  simp only [Config.flagMasksOk, Bool.and_eq_true, List.all_eq_true, List.mem_cons] at hflags
  exact hflags.1 m (.inr (.inr hm))

theorem getElem_flagBit (b : Bool) (mask : Word) {k : Nat} (hk : k < 32) : (flagBit b mask)[k] = (b && mask[k]) := by
  cases b <;> simp [flagBit]

/-- The error word names bits of `ERRMASK` only. -/
theorem errWord_outside (c : Config) (e : ErrorFlags) : errWord c e &&& ~~~errMask c = 0#32 := by
  apply BitVec.eq_of_getLsbD_eq
  intro k hk
  simp [errWord, errMask, getElem_flagBit, hk]
  grind

/-- The error flags that a word shows. -/
def flagsOf (c : Config) (w : Word) : ErrorFlags where
  arb := anySet w c.mArb
  timeout := anySet w c.mTo
  anack := anySet w c.mAnack
  dnack := anySet w c.mDnack
  dnr := anySet w c.mDnr
  starterr := anySet w c.mStarterr
  stoperr := anySet w c.mStoperr

/-- The error word of the flags that a word shows is the word's part inside `ERRMASK`. -/
theorem errWord_flagsOf {c : Config} (h : c.wf = true) (w : Word) : errWord c (flagsOf c w) = w &&& errMask c := by
  have hbit {m : Word} (hm : m ∈ c.errMasks) : flagBit (anySet w m) m = w &&& m :=
    (and_singleBit (singleBit_of_mem_errMasks h hm) w).symm
  simp only [Config.errMasks, List.mem_cons, List.not_mem_nil, or_false] at hbit
  simp only [errWord, flagsOf, errMask, BitVec.and_or_distrib_left, hbit, true_or, or_true]

/-- Settles O55: the error word is inside `ERRMASK`, and a word inside it is the error word of the flags it shows. -/
theorem mockInjectsErrorFlagsOnly : Obligations.MockInjectsErrorFlagsOnly := by
  intro c
  refine ⟨errWord_outside c, fun hw w hin => ⟨flagsOf c w, ?_⟩⟩
  calc errWord c (flagsOf c w)
    _ = w &&& errMask c ||| w &&& ~~~errMask c := by rw [errWord_flagsOf hw, hin, BitVec.or_zero]
    _ = w := by rw [← BitVec.and_or_distrib_left, BitVec.or_not_self, BitVec.and_allOnes]

/-! ### The script of the mock (20_memory.md R81) -/

/-- The second mock has the script of the first, and of its bytes to deliver the last ones. -/
structure SameScript (m m' : Mock) : Prop where
  errinj : m'.errinj = m.errinj
  dTxf : m'.dTxf = m.dTxf
  dRxf : m'.dRxf = m.dRxf
  dRst : m'.dRst = m.dRst
  dRxt : m'.dRxt = m.dRxt
  dStp : m'.dStp = m.dStp
  retInit : m'.retInit = m.retInit
  retFreq : m'.retFreq = m.retFreq
  retTxthr : m'.retTxthr = m.retTxthr
  retRxthr : m'.retRxthr = m.retRxthr
  rxbytes : m'.rxbytes <:+ m.rxbytes

theorem SameScript.refl (m : Mock) : SameScript m m :=
  ⟨rfl, rfl, rfl, rfl, rfl, rfl, rfl, rfl, rfl, rfl, List.suffix_rfl⟩

theorem SameScript.trans {m m' m'' : Mock} (h : SameScript m m') (h' : SameScript m' m'') : SameScript m m'' where
  errinj := h'.errinj.trans h.errinj
  dTxf := h'.dTxf.trans h.dTxf
  dRxf := h'.dRxf.trans h.dRxf
  dRst := h'.dRst.trans h.dRst
  dRxt := h'.dRxt.trans h.dRxt
  dStp := h'.dStp.trans h.dStp
  retInit := h'.retInit.trans h.retInit
  retFreq := h'.retFreq.trans h.retFreq
  retTxthr := h'.retTxthr.trans h.retTxthr
  retRxthr := h'.retRxthr.trans h.retRxthr
  rxbytes := h'.rxbytes.trans h.rxbytes

theorem mockTickRxt_script (c : Config) (p : Periph) (m : Mock) : SameScript m (mockTickRxt c p m).2 := by
  unfold mockTickRxt
  split
  · exact ⟨rfl, rfl, rfl, rfl, rfl, rfl, rfl, rfl, rfl, rfl, List.drop_suffix _ _⟩
  · exact ⟨rfl, rfl, rfl, rfl, rfl, rfl, rfl, rfl, rfl, rfl, List.suffix_rfl⟩

/-- No read of the mock changes its script. -/
theorem mockRead_script {c : Config} {r : Reg} {p p' : Periph} {m m' : Mock} {v : Word}
    (h : mockRead c r p m = some (v, p', m')) : SameScript m m' := by
  cases r with
  | fifo =>
    simp only [mockRead, mockReadFifo] at h
    split at h <;> cases h
    exact .refl m
  | intfl0 =>
    cases h
    obtain ⟨h1, h2, h3, h4, h5, h6, h7, h8, h9, h10, h11⟩ := mockTickRxt_script c p m
    exact ⟨h1, h2, h3, h4, h5, h6, h7, h8, h9, h10, h11⟩
  | mctrl | txctrl | rxctrl | rxcnt | intfl1 =>
    cases h
    exact ⟨rfl, rfl, rfl, rfl, rfl, rfl, rfl, rfl, rfl, rfl, List.suffix_rfl⟩

/-- No write to the mock changes its script. -/
theorem mockWrite_script (c : Config) (r : Reg) (v : Word) (p : Periph) (m : Mock) :
    SameScript m (mockWrite c r v p m).2 := by
  cases r with
  | mctrl =>
    simp only [mockWrite, mockWriteMctrl]
    (repeat' split) <;> exact ⟨rfl, rfl, rfl, rfl, rfl, rfl, rfl, rfl, rfl, rfl, List.suffix_rfl⟩
  | txctrl =>
    simp only [mockWrite, mockWriteTxctrl]
    split <;> exact ⟨rfl, rfl, rfl, rfl, rfl, rfl, rfl, rfl, rfl, rfl, List.suffix_rfl⟩
  | rxctrl =>
    simp only [mockWrite, mockWriteRxctrl]
    split <;> exact ⟨rfl, rfl, rfl, rfl, rfl, rfl, rfl, rfl, rfl, rfl, List.suffix_rfl⟩
  | fifo | rxcnt | intfl0 | intfl1 => exact ⟨rfl, rfl, rfl, rfl, rfl, rfl, rfl, rfl, rfl, rfl, List.suffix_rfl⟩

/-- What is kept of the mock: its script, and that there is none. -/
def KeepsMock (s t : State) : Prop :=
  (s.mock = none → t.mock = none) ∧ ∀ m, s.mock = some m → ∃ m', t.mock = some m' ∧ SameScript m m'

theorem KeepsMock.of_eq {s t : State} (h : t.mock = s.mock) : KeepsMock s t :=
  ⟨fun hm => h.trans hm, fun m hm => ⟨m, h.trans hm, .refl m⟩⟩

theorem KeepsMock.trans {s t u : State} (h : KeepsMock s t) (h' : KeepsMock t u) : KeepsMock s u := by
  refine ⟨fun hm => h'.1 (h.1 hm), fun m hm => ?_⟩
  obtain ⟨m', hm', hscript⟩ := h.2 m hm
  obtain ⟨m'', hm'', hscript'⟩ := h'.2 m' hm'
  exact ⟨m'', hm'', hscript.trans hscript'⟩

theorem memRead_keepsMock {a : Nat} {s : State} {x : Word × State} (h : memRead a s = .next x) : KeepsMock s x.2 := by
  unfold memRead at h
  split at h
  · cases h
  · split at h
    · cases h
      exact .of_eq (by simp [freeRead])
    · rename_i m hm
      split at h
      · rename_i hread
        cases h
        exact ⟨by simp [hm], fun m0 hm0 => ⟨_, rfl, by cases hm.symm.trans hm0; exact mockRead_script hread⟩⟩
      · cases h

theorem memWrite_keepsMock {a : Nat} {v : Word} {s t : State} (h : memWrite a v s = .next t) : KeepsMock s t := by
  unfold memWrite at h
  split at h
  · cases h
  · split at h
    · cases h
      exact .of_eq (by simp [freeWrite])
    · rename_i m hm
      cases h
      exact ⟨by simp [hm], fun m0 hm0 => ⟨_, rfl, by cases hm.symm.trans hm0; exact mockWrite_script _ _ v _ m⟩⟩

theorem loadT_keepsMock {r : Reg} {s t : State} {k : State → State} (h : loadT r s k = .next t)
    (hk : ∀ s1 : State, (k s1).mock = s1.mock) : KeepsMock s t := by
  obtain ⟨x, hx, ht⟩ := andThen_eq_next.1 h
  cases ht
  simpa only [KeepsMock, hk, setT_mock] using memRead_keepsMock hx

theorem store_keepsMock {r : Reg} {v : Word} {s t : State} {k : State → State} (h : store r v s k = .next t)
    (hk : ∀ s1 : State, (k s1).mock = s1.mock) : KeepsMock s t := by
  obtain ⟨s1, hs1, ht⟩ := andThen_eq_next.1 h
  cases ht
  simpa only [KeepsMock, hk] using memWrite_keepsMock hs1

theorem callReply_mock (k : Collaborator) (s : State) : (callReply k s).2.mock = s.mock := by
  rw [callReply_same]

/-- A micro-step changes of the mock what its access changes. -/
theorem microStep_keepsMock {m : MicroStep} {s t : State} (h : microStep m s = .next t) : KeepsMock s t := by
  cases m with
  | wbkRead r | setbRead r | pop | eval =>
    simp only [microStep, readHalf, pop, evalErrors] at h
    exact loadT_keepsMock h fun _ => rfl
  | poll1 r b | poll0 r b =>
    simp only [microStep, pollSet, pollClear] at h
    exact loadT_keepsMock h fun s1 => by split <;> rfl
  | wbkWrite r | setbWrite r b | push o | wr r v | w1c r b => exact store_keepsMock h fun _ => rfl
  | chklen =>
    simp only [microStep, chklen] at h
    split at h
    · cases h
      exact .of_eq rfl
    · split at h <;> cases h
      exact .of_eq rfl
  | payload =>
    simp only [microStep, payloadStep] at h
    split at h
    · obtain ⟨b, -, hpush⟩ := andThen_eq_next.1 h
      exact store_keepsMock hpush fun _ => rfl
    · cases h
      exact .of_eq rfl
  | call k =>
    simp only [microStep, callStep] at h
    split at h <;> cases h <;> exact .of_eq (callReply_mock k s)
  | gpiods | finish =>
    cases h
    exact .of_eq rfl

@[simp] theorem hostTurn_mock (s : State) : (hostTurn s).mock = s.mock := by
  unfold hostTurn
  split <;> rfl

theorem step_keepsMock {s t : State} (h : step s = .next t) : KeepsMock s t := by
  obtain ⟨-, -, -, i, rfl⟩ | ⟨-, i, b, -, -, rfl⟩ | ⟨-, buf, -, rfl⟩ | ⟨-, -, rfl⟩ | ⟨-, -, rfl⟩ |
    ⟨-, -, -, i, m, -, -, hm⟩ := step_next h
  · exact .of_eq rfl
  · exact .of_eq rfl
  · exact .of_eq rfl
  · exact .of_eq rfl
  · exact .of_eq (hostTurn_mock s)
  · exact microStep_keepsMock hm

theorem stepN_keepsMock {n : Nat} {s t : State} (h : stepN n s = .next t) : KeepsMock s t := by
  induction n generalizing s with
  | zero =>
    cases h
    exact .of_eq rfl
  | succ n ih =>
    rw [stepN_succ] at h
    obtain ⟨s1, hstep, hrest⟩ := andThen_eq_next.1 h
    exact (step_keepsMock hstep).trans (ih hrest)

/-- Settles O56: no access of the mock changes its script, and nothing else touches the mock. -/
theorem mockKeepsItsScript : Obligations.MockKeepsItsScript := by
  intro s t h
  obtain ⟨hnone, hsome⟩ := step_keepsMock h
  refine ⟨hnone, fun m hm => ?_⟩
  obtain ⟨m', hm', ⟨h1, h2, h3, h4, h5, h6, h7, h8, h9, h10, sent, hsent⟩⟩ := hsome m hm
  exact ⟨m', hm', h1, h2, h3, h4, h5, h6, h7, h8, h9, h10, sent, hsent.symm⟩

end Sys2Proof.Machine

/-! Proofs of the statements of 20_memory.md on runs against the reference mock (R81 to R88). -/

namespace Sys2Proof.Machine

/-! ### One micro-step against the mock -/

section
variable {s : State} {m m' : Mock} {r : Reg} {v : Word} {p : Periph}

theorem loadT_mock (hw : s.cfg.wf = true) (hm : s.mock = some m)
    (hread : mockRead s.cfg r s.periph m = some (v, p, m')) (k : State → State) :
    loadT r s k = .next (k (({ s with periph := p, mock := some m' }.log (.read r v)).setT v)) := by
  rw [loadT, memRead_mock hw hm r hread, andThen_next]

theorem store_mock (hw : s.cfg.wf = true) (hm : s.mock = some m) (r : Reg) (v : Word) (k : State → State) :
    store r v s k =
      .next (k ({ s with periph := (mockWrite s.cfg r v s.periph m).1,
                         mock := some (mockWrite s.cfg r v s.periph m).2 }.log (.write r v))) := by
  rw [store, memWrite_mock hw hm r v, andThen_next]

end

/-- One more step of a run: the row of the running command. -/
theorem stepN_succ_row {s0 t : State} {i : Instr} {k n : Nat} {ms : MicroStep} (hrun : stepN k s0 = .next t)
    (h : Running i n t) (hin : t.input = none) (hrow : rowOf i n = some ms) :
    stepN (k + 1) s0 = microStep ms t := by
  rw [stepN_add, hrun, andThen_next, stepN_row 0 h hin hrow]
  cases microStep ms t <;> rfl

/-! ### Flag tests -/

theorem anySet_eq_false_iff {v mask : Word} : anySet v mask = false ↔ v &&& mask = 0#32 := by
  simp [anySet]

theorem anySet_eq_true_iff {v mask : Word} : anySet v mask = true ↔ v &&& mask ≠ 0#32 := by
  simp [anySet]

@[simp] theorem anySet_clear (v mask : Word) : anySet (v &&& ~~~mask) mask = false := by
  simp [anySet, BitVec.and_assoc]

theorem anySet_orMask {mask : Word} (h : mask ≠ 0#32) (v : Word) : anySet (orMask v mask) mask = true := by
  have hand : (v ||| mask) &&& mask = mask := by
    apply BitVec.eq_of_getLsbD_eq
    intro k hk
    simpa [hk] using Or.inr
  rwa [anySet_eq_true_iff, orMask, hand]

/-! ### The flush waits, read by read (20_memory.md R82, R83) -/

/-- A wait for a bit to clear on a countdown `d` takes `d` reads that show the bit, then one that does not. -/
theorem stepN_poll0_countdown {i : Instr} {n : Nat} {r : Reg} {b : FlagBit} {c : Config} {p p' : Periph} {v v' : Word}
    (mk : Option Nat → Mock) (hrow : rowOf i n = some (.poll0 r b))
    (hwait : ∀ j, mockRead c r p (mk (some (j + 1))) = some (v, p, mk (some j)))
    (hfire : mockRead c r p (mk (some 0)) = some (v', p', mk none))
    (hv : anySet v (c.mask b) = true) (hv' : anySet v' (c.mask b) = false) (d : Nat) {s : State}
    (h : Running i n s) (hin : s.input = none) (hc : s.cfg = c) (hp : s.periph = p) (hm : s.mock = some (mk (some d))) :
    stepN (d + 1) s = .next { s with
      eng := { s.eng with t := v', upc := n + 1 }
      periph := p'
      mock := some (mk none)
      trace := s.trace ++ List.replicate d (.read r v) ++ [.read r v'] } := by
  induction d generalizing s with
  | zero =>
    subst hc hp
    obtain ⟨hw, hb, hl, hn⟩ := h
    rw [stepN_row 0 ⟨hw, hb, hl, hn⟩ hin hrow, microStep, pollClear, loadT_mock hw hm hfire]
    simp [hv', State.log, State.setT, State.advance, State.setUpc, hn]
  | succ d ih =>
    subst hc
    obtain ⟨hw, hb, hl, hn⟩ := h
    rw [stepN_row (d + 1) ⟨hw, hb, hl, hn⟩ hin hrow, microStep, pollClear, loadT_mock hw hm (hp ▸ hwait d)]
    simp only [setT_eng_t, hv, reduceIte, andThen_next]
    rw [ih]
    · simp [State.log, State.setT, List.replicate_succ]
    · exact ⟨hw, hb, hl, hn⟩
    · exact hin
    · rfl
    · exact hp
    · rfl

/-- Steps 0 to 9 of every transaction are FLUSH (41_flush.md R151). -/
theorem rowOf_flush {i : Instr} (h : i.opcode ≠ 0x04#8) {n : Nat} (hn : n < 10) : rowOf i n = flushTable[n]? := by
  have hall : ∀ k < 10, rowOf i k = flushTable[k]? := by
    cases i with
    | init speed => exact absurd rfl h
    | _ => intro k hk; interval_cases k <;> rfl
  exact hall n hn

/-- Settles O53: each of the two waits is a countdown's. -/
theorem mockFlushDelayIsTheReadCount : Obligations.MockFlushDelayIsTheReadCount := by
  intro s i m d hop hin hm
  refine ⟨fun hrun hc hset => ?_, fun hrun hc hset => ?_⟩
  · refine stepN_poll0_countdown (fun o => { m with cTxf := o }) (rowOf_flush hop (n := 6) (by decide))
      (fun j => rfl) rfl (anySet_eq_true_iff.2 hset) (anySet_clear _ _) d hrun hin rfl rfl ?_
    rw [hm, ← hc]
  · refine stepN_poll0_countdown (fun o => { m with cRxf := o }) (rowOf_flush hop (n := 9) (by decide))
      (fun j => rfl) rfl (anySet_eq_true_iff.2 hset) (anySet_clear _ _) d hrun hin rfl rfl ?_
    rw [hm, ← hc]

/-! ### INIT against the mock (20_memory.md R88, 45_init.md R191 to R193) -/

/-- `n` steps after its issue INIT stands at step `n`: the mock and its registers are as they were, the configuration
fields are `env`, and the calls made are `tr`. -/
structure InitRun (s : State) (m : Mock) (speed : Word) (n : Nat) (env : PeriphConfig) (tr : List TraceEntry)
    (t : State) : Prop where
  run : stepN n (s.issue (.init speed)) = .next t
  running : Running (.init speed) n t
  cfg : t.cfg = s.cfg
  input : t.input = none
  mock : t.mock = some m
  periph : t.periph = s.periph
  env : t.env = env
  trace : t.trace = s.trace ++ tr

/-- `n` steps after its issue INIT has completed with status `st`. -/
abbrev InitDone (s : State) (m : Mock) (speed : Word) (n : Nat) (st : Word) (env : PeriphConfig) (tr : List TraceEntry)
    (t : State) : Prop :=
  issueAndRun (.init speed) n s = .next t ∧ t.eng.busy = false ∧ t.eng.status = st ∧ t.env = env ∧ t.mock = some m ∧
    t.periph = s.periph ∧ t.trace = s.trace ++ tr

theorem callRecord_congr (k : Collaborator) {s t : State} (hc : t.cfg = s.cfg) (hs : t.eng.speed = s.eng.speed) :
    callRecord k t = callRecord k s := by
  cases k <;> simp [callRecord, hc, hs]

/-- The trace entry of a call of INIT under the mock. -/
def mockCall (s : State) (m : Mock) (speed : Word) (k : Collaborator) : TraceEntry :=
  .call (callRecord k (s.issue (.init speed))) (some (mockReturn k speed m))

section
variable {s t : State} {m : Mock} {speed : Word} {n : Nat} {env : PeriphConfig} {tr : List TraceEntry}

theorem initRun_start (hs : Idle s) (hin : s.input = none) (hm : s.mock = some m) :
    InitRun s m speed 0 s.env [] (s.issue (.init speed)) :=
  ⟨rfl, ⟨hs.1, rfl, rfl, rfl⟩, rfl, hin, hm, rfl, rfl, by simp⟩

theorem InitRun.stepN_succ (h : InitRun s m speed n env tr t) {ms : MicroStep} (hrow : initRow n = some ms) :
    stepN (n + 1) (s.issue (.init speed)) = microStep ms t :=
  stepN_succ_row h.run h.running h.input hrow

/-- A call under the mock: its trace entry, and what it leaves of the configuration fields. -/
theorem InitRun.callStep_eq (h : InitRun s m speed n env tr t) (k : Collaborator) :
    microStep (.call k) t =
      if callFails s.cfg k (mockReturn k speed m) then
        .next (((({ t with freeCtr := t.freeCtr + 1 } : State).log (mockCall s m speed k)).setEnv env).complete
          (mockReturn k speed m))
      else
        .next ((({ t with freeCtr := t.freeCtr + 1 } : State).log (mockCall s m speed k)).setEnv
          (envOnSuccess s.cfg k (Config.freeCallField t.freeCtr) env)).advance := by
  obtain ⟨-, -, hl, -⟩ := h.running
  have hspeed := latched_init hl
  have hrec : callRecord k t = callRecord k (s.issue (.init speed)) := callRecord_congr k h.cfg hspeed
  simp [microStep, callStep, callReply, h.mock, hspeed, hrec, h.cfg, h.env, mockCall, envOnFailure]

/-- A call that succeeds. -/
theorem InitRun.call (h : InitRun s m speed n env tr t) {k : Collaborator} (hrow : initRow n = some (.call k))
    (hok : callFails s.cfg k (mockReturn k speed m) = false) :
    ∃ t' field, InitRun s m speed (n + 1) (envOnSuccess s.cfg k field env) (tr ++ [mockCall s m speed k]) t' := by
  have hstep := (h.callStep_eq k).trans (if_neg (by simp [hok]))
  obtain ⟨hw, hb, hl, hn⟩ := h.running
  exact ⟨_, _, (h.stepN_succ hrow).trans hstep, ⟨hw, hb, hl, congrArg (· + 1) hn⟩, h.cfg, h.input, h.mock, h.periph,
    rfl, by simp [h.trace]⟩

/-- A call that fails. -/
theorem InitRun.call_fails (h : InitRun s m speed n env tr t) (hs : Idle s) {k : Collaborator}
    (hrow : initRow n = some (.call k)) (hfail : callFails s.cfg k (mockReturn k speed m) = true) :
    ∃ t', InitDone s m speed (n + 1) (mockReturn k speed m) env (tr ++ [mockCall s m speed k]) t' := by
  have hstep := (h.callStep_eq k).trans (if_pos hfail)
  exact ⟨_, (issueAndRun_idle hs _).trans ((h.stepN_succ hrow).trans hstep), rfl, rfl, rfl, h.mock, h.periph,
    by simp [h.trace]⟩

/-- The GPIO action. -/
theorem InitRun.gpio (h : InitRun s m speed 4 env tr t) :
    ∃ t', InitRun s m speed 5 { env with gpioDs := env.gpioDs ||| s.cfg.gpioDsMask }
      (tr ++ [.call (.gpioDriveStrength s.cfg.gpioDsMask) none]) t' := by
  obtain ⟨hw, hb, hl, hn⟩ := h.running
  exact ⟨_, (h.stepN_succ (ms := .gpiods) rfl).trans rfl, ⟨hw, hb, hl, congrArg (· + 1) hn⟩, h.cfg, h.input, h.mock,
    h.periph, by simp [← h.env, ← h.cfg, orMask], by simp [h.trace, h.cfg]⟩

/-- The completion. -/
theorem InitRun.finish (h : InitRun s m speed 5 env tr t) (hs : Idle s) :
    ∃ t', InitDone s m speed 6 s.cfg.stOk env tr t' :=
  ⟨_, (issueAndRun_idle hs _).trans (h.stepN_succ (ms := .finish) rfl), rfl, congrArg Config.stOk h.cfg, h.env, h.mock,
    h.periph, h.trace⟩

end

/-- The frequency the mock returns by default is no failure (20_memory.md R88). -/
theorem default_frequency_nonneg (speed : Word) :
    0 ≤ (if speed.toNat ≤ 0x7FFFFFFF then speed else 0#32 : Word).toInt := by
  split
  · rw [BitVec.toInt_eq_toNat_of_lt (by omega)]
    omega
  · decide

theorem callFails_eq_false {c : Config} {k : Collaborator} {v : Word} (hk : k ≠ .setFrequency) (h : v = c.stOk) :
    callFails c k v = false := by
  cases k <;> simp_all [callFails]

theorem callFails_eq_true {c : Config} {k : Collaborator} {v : Word} (hk : k ≠ .setFrequency) (h : v ≠ c.stOk) :
    callFails c k v = true := by
  cases k <;> simp_all [callFails]

/-- Settles O59: the calls run one after the other until one fails. -/
theorem initCompletesOnTheMock : Obligations.InitCompletesOnTheMock := by
  intro s m speed hs hin hm r0 r1 r2 r3 c0 c1 c2 c3 ends
  have start := initRun_start (speed := speed) hs hin hm
  have call0 (h0 : r0 = s.cfg.stOk) := start.call (k := .peripheralInit) rfl (callFails_eq_false (by decide) h0)
  have call1 (h0 : r0 = s.cfg.stOk) (h1 : 0 ≤ r1.toInt) :
      ∃ t hz, InitRun s m speed 2 { s.env with mode := s.cfg.modeMaster, hz := hz } [c0, c1] t := by
    obtain ⟨t, _, ht⟩ := call0 h0
    exact ht.call (k := .setFrequency) rfl (decide_eq_false (by exact Int.not_lt.2 h1))
  have call2 (h0 : r0 = s.cfg.stOk) (h1 : 0 ≤ r1.toInt) (h2 : r2 = s.cfg.stOk) :
      ∃ t hz, InitRun s m speed 3 { s.env with mode := s.cfg.modeMaster, hz := hz, txthr := 1#32 } [c0, c1, c2] t := by
    obtain ⟨t, hz, ht⟩ := call1 h0 h1
    obtain ⟨t', _, ht'⟩ := ht.call (k := .setTxThreshold) rfl (callFails_eq_false (by decide) h2)
    exact ⟨t', hz, ht'⟩
  refine ⟨?_, fun h0 => ?_, fun h0 h1 => ?_, fun h0 h1 h2 => ?_, fun h0 h1 h2 h3 => ?_, fun h0 h1 h2 h3 => ?_⟩
  · intro hnone
    simp only [r1, hnone]
    exact default_frequency_nonneg speed
  · obtain ⟨t, ht⟩ := start.call_fails hs (k := .peripheralInit) rfl (callFails_eq_true (by decide) h0)
    exact ⟨t, 0#32, ht⟩
  · obtain ⟨_, _, hrun⟩ := call0 h0
    obtain ⟨t, ht⟩ := hrun.call_fails hs (k := .setFrequency) rfl (decide_eq_true h1)
    exact ⟨t, 0#32, ht⟩
  · obtain ⟨_, hz, hrun⟩ := call1 h0 h1
    obtain ⟨t, ht⟩ := hrun.call_fails hs (k := .setTxThreshold) rfl (callFails_eq_true (by decide) h2)
    exact ⟨t, hz, ht⟩
  · obtain ⟨_, hz, hrun⟩ := call2 h0 h1 h2
    obtain ⟨t, ht⟩ := hrun.call_fails hs (k := .setRxThreshold) rfl (callFails_eq_true (by decide) h3)
    exact ⟨t, hz, ht⟩
  · obtain ⟨_, hz, hrun⟩ := call2 h0 h1 h2
    obtain ⟨_, _, hrun'⟩ := hrun.call (k := .setRxThreshold) rfl (callFails_eq_false (by decide) h3)
    obtain ⟨_, hgpio⟩ := hrun'.gpio
    obtain ⟨t, ht⟩ := hgpio.finish hs
    exact ⟨t, hz, ht⟩

/-! ### The masks of a well-formed configuration (00_scope.md R7) -/

theorem wf_flushMasks {c : Config} (h : c.wf = true) : c.mTxflush ≠ 0#32 ∧ c.mRxflush ≠ 0#32 := by
  obtain ⟨-, -, -, -, -, hflush, -⟩ := wf_iff.1 h
  simp only [Config.flushMasksOk, Bool.and_eq_true] at hflush
  exact hflush.imp singleBit_ne_zero singleBit_ne_zero

theorem wf_mctrlMasks {c : Config} (h : c.wf = true) :
    c.mRestart ≠ 0#32 ∧ c.mStop ≠ 0#32 ∧ c.mStart &&& c.mStop = 0#32 ∧ c.mRestart &&& c.mStart = 0#32 ∧
      c.mRestart &&& c.mStop = 0#32 := by
  obtain ⟨-, -, -, -, hmasks, -⟩ := wf_iff.1 h
  simp only [Config.mctrlMasksOk, Bool.and_eq_true] at hmasks
  obtain ⟨hbits, hdistinct⟩ := hmasks
  simp only [List.all_cons, List.all_nil, Bool.and_true, Bool.and_eq_true] at hbits
  obtain ⟨hstart, hrestart, hstop⟩ := hbits
  simp only [pairwiseDistinct, List.contains_cons, List.contains_nil, Bool.or_false, Bool.not_or, Bool.and_true,
    Bool.and_eq_true, Bool.not_eq_true', beq_eq_false_iff_ne] at hdistinct
  obtain ⟨⟨h12, h13⟩, h23, -⟩ := hdistinct
  exact ⟨singleBit_ne_zero hrestart, singleBit_ne_zero hstop, singleBit_disjoint hstart hstop h13,
    singleBit_disjoint hrestart hstart (Ne.symm h12), singleBit_disjoint hrestart hstop h23⟩

/-- The two polled flags are different bits, outside `ERRMASK`. -/
theorem wf_polledFlags {c : Config} (h : c.wf = true) :
    c.mRxthrf ≠ 0#32 ∧ c.mStopf ≠ 0#32 ∧ c.mRxthrf &&& c.mStopf = 0#32 ∧ c.mRxthrf &&& errMask c = 0#32 ∧
      c.mStopf &&& errMask c = 0#32 := by
  obtain ⟨-, -, -, -, -, -, hflags, -⟩ := wf_iff.1 h
  simp only [Config.flagMasksOk, List.all_cons, pairwiseDistinct, Bool.and_eq_true, Bool.not_eq_true',
    List.contains_eq_mem, decide_eq_false_iff_not, List.mem_cons, not_or] at hflags
  obtain ⟨⟨hrx, hst, -⟩, ⟨hne, hrxerr⟩, hsterr, -⟩ := hflags
  have disjoint_errMask {w : Word} (hw : singleBit w = true) (hnot : w ∉ c.errMasks) : w &&& errMask c = 0#32 := by
    have hzero {m : Word} (hm : m ∈ c.errMasks) : w &&& m = 0#32 :=
      singleBit_disjoint hw (singleBit_of_mem_errMasks h hm) (fun he => hnot (he ▸ hm))
    simp only [Config.errMasks, List.mem_cons, List.not_mem_nil, or_false] at hzero
    simp only [errMask, BitVec.and_or_distrib_left, hzero, true_or, or_true, BitVec.or_zero]
  exact ⟨singleBit_ne_zero hrx, singleBit_ne_zero hst, singleBit_disjoint hrx hst hne, disjoint_errMask hrx hrxerr,
    disjoint_errMask hst hsterr⟩

/-! ### A run against the mock, one access a step -/

/-- `k` steps from `s0` lead to `t`, where command `i` stands at step `n`: each step has made one access, `RDATA` holds
`b`, and the register block and the mock are `p` and `m`. -/
structure MockRun (s0 : State) (i : Instr) (k n : Nat) (b : Byte) (p : Periph) (m : Mock) (t : State) : Prop where
  run : stepN k s0 = .next t
  running : Running i n t
  cfg : t.cfg = s0.cfg
  input : t.input = none
  rdata : t.eng.rdata = b
  periph : t.periph = p
  mock : t.mock = some m
  length : t.trace.length = s0.trace.length + k

/-- Such a state is reached. -/
def Reached (s0 : State) (i : Instr) (k n : Nat) (b : Byte) (p : Periph) (m : Mock) : Prop :=
  ∃ t, MockRun s0 i k n b p m t

/-- `ms` is a wait on register `r`: it reads, and goes on if the value read is ready. -/
def IsWait (ms : MicroStep) (c : Config) (r : Reg) (ready : Word → Bool) : Prop :=
  ∀ s : State, s.cfg = c → microStep ms s = loadT r s fun s' => if ready s'.eng.t then s'.advance else s'

theorem poll1_isWait (c : Config) (r : Reg) (b : FlagBit) :
    IsWait (.poll1 r b) c r fun v => anySet v (c.mask b) := by
  rintro s rfl
  rfl

theorem poll0_isWait (c : Config) (r : Reg) (b : FlagBit) :
    IsWait (.poll0 r b) c r fun v => !anySet v (c.mask b) := by
  rintro s rfl
  simp only [microStep, pollClear]
  congr 1
  funext s'
  by_cases hset : anySet s'.eng.t (s.cfg.mask b) = true <;> simp [hset]

/-- In command `i` the row `ms` writes the word `v` to register `r` and goes on. -/
def IsPut (ms : MicroStep) (i : Instr) (c : Config) (r : Reg) (v : Word) : Prop :=
  ∀ s : State, s.cfg = c → latched s.eng = some i → microStep ms s = store r v s State.advance

section
variable {s0 t : State} {i : Instr} {k n : Nat} {b : Byte} {p p1 : Periph} {m m1 : Mock} {r : Reg} {v : Word}
  {ms : MicroStep} {f : State → State}

/-- A reading row: the mock answers, and the rest of the row sees the value in `x[T]`. -/
theorem MockRun.read (h : MockRun s0 i k n b p m t) (hrow : rowOf i n = some ms) (hms : microStep ms t = loadT r t f)
    (hread : mockRead s0.cfg r p m = some (v, p1, m1)) :
    stepN (k + 1) s0 = .next (f (({ t with periph := p1, mock := some m1 }.log (.read r v)).setT v)) := by
  obtain ⟨hw, -⟩ := h.running
  rw [stepN_succ_row h.run h.running h.input hrow, hms, loadT_mock hw h.mock (by rw [h.cfg, h.periph, hread])]

/-- A writing row. -/
theorem MockRun.write (h : MockRun s0 i k n b p m t) (hrow : rowOf i n = some ms)
    (hms : microStep ms t = store r v t f) :
    stepN (k + 1) s0 = .next (f ({ t with periph := (mockWrite s0.cfg r v p m).1,
                                          mock := some (mockWrite s0.cfg r v p m).2 }.log (.write r v))) := by
  obtain ⟨hw, -⟩ := h.running
  rw [stepN_succ_row h.run h.running h.input hrow, hms, store_mock hw h.mock, h.cfg, h.periph]

/-- The read half of a read-modify-write. -/
theorem MockRun.readHalf (h : MockRun s0 i k n b p m t) (hrow : rowOf i n = some ms)
    (hms : microStep ms t = readHalf r t) (hread : mockRead s0.cfg r p m = some (v, p1, m1)) :
    ∃ t', MockRun s0 i (k + 1) (n + 1) b p1 m1 t' ∧ t'.eng.t = v := by
  have hrun := h.read hrow hms hread
  obtain ⟨hw, hb, hl, hn⟩ := h.running
  exact ⟨_, ⟨hrun, ⟨hw, hb, hl, congrArg (· + 1) hn⟩, h.cfg, h.input, h.rdata, rfl, rfl,
    by simp [h.length]; omega⟩, rfl⟩

/-- A row that writes and goes on. -/
theorem MockRun.put (h : MockRun s0 i k n b p m t) (hrow : rowOf i n = some ms)
    (hms : microStep ms t = store r v t State.advance) :
    Reached s0 i (k + 1) (n + 1) b (mockWrite s0.cfg r v p m).1 (mockWrite s0.cfg r v p m).2 := by
  have hrun := h.write hrow hms
  obtain ⟨hw, hb, hl, hn⟩ := h.running
  exact ⟨_, hrun, ⟨hw, hb, hl, congrArg (· + 1) hn⟩, h.cfg, h.input, h.rdata, rfl, rfl, by simp [h.length]; omega⟩

theorem Reached.put (h : Reached s0 i k n b p m) (hrow : rowOf i n = some ms) (hput : IsPut ms i s0.cfg r v) :
    Reached s0 i (k + 1) (n + 1) b (mockWrite s0.cfg r v p m).1 (mockWrite s0.cfg r v p m).2 := by
  obtain ⟨t, h⟩ := h
  obtain ⟨-, -, hl, -⟩ := h.running
  exact h.put hrow (hput t h.cfg hl)

/-- The two rows of `WBK` (40_microops.md R138). -/
theorem Reached.writeBack {x : Word × Periph × Mock} (h : Reached s0 i k n b p m)
    (hrow : rowOf i n = some (.wbkRead r)) (hrow' : rowOf i (n + 1) = some (.wbkWrite r))
    (hread : mockRead s0.cfg r p m = some x) :
    Reached s0 i (k + 2) (n + 2) b (mockWrite s0.cfg r x.1 x.2.1 x.2.2).1 (mockWrite s0.cfg r x.1 x.2.1 x.2.2).2 := by
  obtain ⟨t, h⟩ := h
  obtain ⟨t', h', hv⟩ := h.readHalf hrow rfl hread
  exact h'.put hrow' (by rw [← hv]; rfl)

/-- The two rows of `SETB` (40_microops.md R132). -/
theorem Reached.setBit {x : Word × Periph × Mock} {fb : FlagBit} (h : Reached s0 i k n b p m)
    (hrow : rowOf i n = some (.setbRead r)) (hrow' : rowOf i (n + 1) = some (.setbWrite r fb))
    (hread : mockRead s0.cfg r p m = some x) :
    Reached s0 i (k + 2) (n + 2) b (mockWrite s0.cfg r (orMask x.1 (s0.cfg.mask fb)) x.2.1 x.2.2).1
      (mockWrite s0.cfg r (orMask x.1 (s0.cfg.mask fb)) x.2.1 x.2.2).2 := by
  obtain ⟨t, h⟩ := h
  obtain ⟨t', h', hv⟩ := h.readHalf hrow rfl hread
  exact h'.put hrow' (by rw [← hv, ← h'.cfg]; rfl)

/-- A wait: `A j` says that `j` more reads will not show what is awaited, `B` what the last read leaves. -/
theorem Reached.wait {ready : Word → Bool} {A : Nat → Periph → Mock → Prop} {B : Periph → Mock → Prop} {d : Nat}
    (h : Reached s0 i k n b p m) (hrow : rowOf i n = some ms) (hms : IsWait ms s0.cfg r ready) (hA : A d p m)
    (hstay : ∀ j p m, A (j + 1) p m →
      ∃ v p' m', mockRead s0.cfg r p m = some (v, p', m') ∧ ready v = false ∧ A j p' m')
    (hgo : ∀ p m, A 0 p m → ∃ v p' m', mockRead s0.cfg r p m = some (v, p', m') ∧ ready v = true ∧ B p' m') :
    ∃ p' m', Reached s0 i (k + (d + 1)) (n + 1) b p' m' ∧ B p' m' := by
  induction d generalizing k p m with
  | zero =>
    obtain ⟨t, h⟩ := h
    obtain ⟨v, p', m', hread, hready, hB⟩ := hgo p m hA
    have hrun := h.read hrow (hms t h.cfg) hread
    rw [if_pos (by exact hready)] at hrun
    obtain ⟨hw, hb, hl, hn⟩ := h.running
    exact ⟨p', m', ⟨_, hrun, ⟨hw, hb, hl, congrArg (· + 1) hn⟩, h.cfg, h.input, h.rdata, rfl, rfl,
      by simp [h.length]; omega⟩, hB⟩
  | succ d ih =>
    obtain ⟨t, h⟩ := h
    obtain ⟨v, p', m', hread, hready, hA'⟩ := hstay d p m hA
    have hrun := h.read hrow (hms t h.cfg) hread
    rw [if_neg (by simp [hready])] at hrun
    have hstayed : Reached s0 i (k + 1) n b p' m' :=
      ⟨_, hrun, h.running, h.cfg, h.input, h.rdata, rfl, rfl, by simp [h.length]; omega⟩
    have hrest := ih hstayed hA'
    rwa [show k + 1 + (d + 1) = k + (d + 1 + 1) by omega] at hrest

/-- A wait on a countdown `d` that ends when it fires. -/
theorem Reached.countdown {ready : Word → Bool} {o : Option Nat} {d : Nat} {v' : Word} (mk : Option Nat → Mock)
    (h : Reached s0 i k n b p (mk o)) (hd : o = some d) (hrow : rowOf i n = some ms) (hms : IsWait ms s0.cfg r ready)
    (hwait : ∀ j, mockRead s0.cfg r p (mk (some (j + 1))) = some (v, p, mk (some j))) (hv : ready v = false)
    (hfire : mockRead s0.cfg r p (mk (some 0)) = some (v', p1, m1)) (hv' : ready v' = true) :
    Reached s0 i (k + (d + 1)) (n + 1) b p1 m1 := by
  subst hd
  obtain ⟨p', m', h', rfl, rfl⟩ :=
    h.wait (A := fun j p' m' => p' = p ∧ m' = mk (some j)) (B := fun p' m' => p' = p1 ∧ m' = m1) hrow hms ⟨rfl, rfl⟩
      (by rintro j _ _ ⟨rfl, rfl⟩; exact ⟨v, _, _, hwait j, hv, rfl, rfl⟩)
      (by rintro _ _ ⟨rfl, rfl⟩; exact ⟨v', _, _, hfire, hv', rfl, rfl⟩)
  exact h'

end

/-! ### What an access of the mock does (20_memory.md R83 to R86) -/

section
variable (c : Config) (v : Word) (p : Periph) (m : Mock)

@[simp] theorem mockWriteMctrl_txlog : (mockWriteMctrl c v p m).2.txlog = m.txlog := by
  simp only [mockWriteMctrl]
  (repeat' split) <;> rfl

@[simp] theorem mockWriteMctrl_rxbytes : (mockWriteMctrl c v p m).2.rxbytes = m.rxbytes := by
  simp only [mockWriteMctrl]
  (repeat' split) <;> rfl

@[simp] theorem mockWriteMctrl_cRxt : (mockWriteMctrl c v p m).2.cRxt = m.cRxt := by
  simp only [mockWriteMctrl]
  (repeat' split) <;> rfl

@[simp] theorem mockWriteMctrl_cStp :
    (mockWriteMctrl c v p m).2.cStp = if anySet v c.mStop then m.dStp else m.cStp := by
  simp only [mockWriteMctrl]
  (repeat' split) <;> rfl

@[simp] theorem mockWriteMctrl_cRst :
    (mockWriteMctrl c v p m).2.cRst = if anySet v c.mRestart then m.dRst else m.cRst := by
  simp only [mockWriteMctrl]
  (repeat' split) <;> rfl

@[simp] theorem mockWriteMctrl_afterRestart :
    (mockWriteMctrl c v p m).2.afterRestart = (anySet v c.mRestart || m.afterRestart) := by
  simp only [mockWriteMctrl]
  (repeat' split) <;> simp_all

theorem mockTickRxt_off (h : m.cRxt = none) : mockTickRxt c p m = (p, m) := by
  have hm : { m with cRxt := none } = m := by rw [← h]
  simp [mockTickRxt, h, fires, ticked, hm]

@[simp] theorem mockReadIntfl0_mctrl : (mockReadIntfl0 c p m).2.1.mctrl = p.mctrl := by
  simp only [mockReadIntfl0, mockTickRxt, mockTickStp]
  split <;> rfl

@[simp] theorem mockReadIntfl0_txlog : (mockReadIntfl0 c p m).2.2.txlog = m.txlog := by
  simp only [mockReadIntfl0, mockTickRxt, mockTickStp]
  split <;> rfl

@[simp] theorem mockReadIntfl0_cRxt : (mockReadIntfl0 c p m).2.2.cRxt = ticked m.cRxt := by
  simp only [mockReadIntfl0, mockTickRxt, mockTickStp]
  split <;> rfl

@[simp] theorem mockReadIntfl0_cStp : (mockReadIntfl0 c p m).2.2.cStp = ticked m.cStp := by
  simp only [mockReadIntfl0, mockTickRxt, mockTickStp]
  split <;> rfl

theorem mockReadIntfl0_rxbytes (h : m.cRxt = none) : (mockReadIntfl0 c p m).2.2.rxbytes = m.rxbytes := by
  simp [mockReadIntfl0, mockTickRxt_off c p m h, mockTickStp]

/-- Bits other than RXTHRF: as they were, or with what a firing `c_stp` sets. -/
theorem mockReadIntfl0_and {mask : Word} (h : c.mRxthrf &&& mask = 0#32) :
    (mockReadIntfl0 c p m).2.1.intfl0 &&& mask =
      (if fires m.cStp then p.intfl0 ||| c.mStopf ||| errWord c m.errinj else p.intfl0) &&& mask := by
  simp only [mockReadIntfl0, mockTickRxt, mockTickStp]
  split
  · split <;> split <;> simp [BitVec.and_or_distrib_right, h]
  · rfl

end

theorem writeOneToClear_self (v : Word) : writeOneToClear v v = 0#32 := by
  simp [writeOneToClear]

/-! ### FLUSH -/

/-- What FLUSH leaves: no flag, an empty RX FIFO, no byte pushed, no STOP and no byte pending that was not before. -/
structure Flushed (p p' : Periph) (m m' : Mock) : Prop where
  intfl0 : p'.intfl0 = 0#32
  rxFifo : p'.rxFifo = []
  mctrl : p'.mctrl = p.mctrl
  txlog : m'.txlog = m.txlog
  cStp : m.cStp = none → m'.cStp = none
  rxbytes : m.cRxt = none → m'.rxbytes = m.rxbytes

section
variable {s0 : State} {i : Instr} {k : Nat} {b : Byte} {p : Periph} {m : Mock}

/-- `SETB` of a flush bit and the wait for it to clear: `q v` is the register block with `v` in the control register and
the FIFO emptied, `mk o` the mock with the countdown at `o`. The wait takes one read more than the delay
(20_memory.md R83). -/
theorem Reached.flushFifo {n d : Nat} {o : Option Nat} {r : Reg} {fb : FlagBit} {x : Word × Periph × Mock}
    (q : Word → Periph) (mk : Option Nat → Mock) (h : Reached s0 i k n b p m) (hrow : rowOf i n = some (.setbRead r))
    (hrow' : rowOf i (n + 1) = some (.setbWrite r fb)) (hrow'' : rowOf i (n + 2) = some (.poll0 r fb))
    (hne : s0.cfg.mask fb ≠ 0#32) (hread : mockRead s0.cfg r p m = some x)
    (hwrite : ∀ v, anySet v (s0.cfg.mask fb) = true → mockWrite s0.cfg r v x.2.1 x.2.2 = (q v, mk o))
    (hd : o = some d) (hwait : ∀ v j, mockRead s0.cfg r (q v) (mk (some (j + 1))) = some (v, q v, mk (some j)))
    (hfire : ∀ v, mockRead s0.cfg r (q v) (mk (some 0)) =
      some (v &&& ~~~s0.cfg.mask fb, q (v &&& ~~~s0.cfg.mask fb), mk none)) :
    ∃ v, Reached s0 i (k + (3 + d)) (n + 3) b (q v) (mk none) := by
  have hset := anySet_orMask hne x.1
  have h2 := h.setBit hrow hrow' hread
  rw [hwrite _ hset] at h2
  have h3 := h2.countdown mk hd hrow'' (poll0_isWait s0.cfg r fb) (hwait _) (by simp [hset]) (hfire _) (by simp)
  rw [show k + 2 + (d + 1) = k + (3 + d) by omega] at h3
  exact ⟨_, h3⟩

/-- Steps 4 to 6: the TX FIFO. -/
theorem Reached.flushTx {d : Nat} (h : Reached s0 i k 4 b p m) (hw : s0.cfg.wf = true) (hop : i.opcode ≠ 0x04#8)
    (hd : m.dTxf = some d) :
    ∃ v, Reached s0 i (k + (3 + d)) 7 b { p with txctrl := v, txFifo := [] } { m with cTxf := none } := by
  have hrow (n : Nat) (hn : n < 10) := rowOf_flush hop hn
  exact h.flushFifo (fun v => { p with txctrl := v, txFifo := [] }) (fun o => { m with cTxf := o })
    (hrow 4 (by decide)) (hrow 5 (by decide)) (hrow 6 (by decide)) (wf_flushMasks hw).1
    (x := mockReadTxctrl s0.cfg p m) rfl (fun v hset => if_pos hset) hd (fun _ _ => rfl) (fun _ => rfl)

/-- Steps 7 to 9: the RX FIFO. -/
theorem Reached.flushRx {d : Nat} (h : Reached s0 i k 7 b p m) (hw : s0.cfg.wf = true) (hop : i.opcode ≠ 0x04#8)
    (hd : m.dRxf = some d) :
    ∃ v, Reached s0 i (k + (3 + d)) 10 b { p with rxctrl := v, rxFifo := [] } { m with cRxf := none } := by
  have hrow (n : Nat) (hn : n < 10) := rowOf_flush hop hn
  exact h.flushFifo (fun v => { p with rxctrl := v, rxFifo := [] }) (fun o => { m with cRxf := o })
    (hrow 7 (by decide)) (hrow 8 (by decide)) (hrow 9 (by decide)) (wf_flushMasks hw).2
    (x := mockReadRxctrl s0.cfg p m) rfl (fun v hset => if_pos hset) hd (fun _ _ => rfl) (fun _ => rfl)

/-- Steps 0 to 9: stale flags are cleared, and each wait takes one read more than its delay (41_flush.md R151, R153). -/
theorem Reached.flush {dt dr : Nat} (h : Reached s0 i k 0 b p m) (hw : s0.cfg.wf = true) (hop : i.opcode ≠ 0x04#8)
    (hdt : m.dTxf = some dt) (hdr : m.dRxf = some dr) :
    ∃ p' m', Reached s0 i (k + (10 + dt + dr)) 10 b p' m' ∧ Flushed p p' m m' := by
  have hrow (n : Nat) (hn : n < 10) := rowOf_flush hop hn
  have hscript : SameScript m (mockReadIntfl0 s0.cfg p m).2.2 := mockRead_script (r := .intfl0) rfl
  have h2 := h.writeBack (hrow 0 (by decide)) (hrow 1 (by decide)) (r := .intfl0) rfl
  have h4 := h2.writeBack (hrow 2 (by decide)) (hrow 3 (by decide)) (r := .intfl1) rfl
  obtain ⟨v, h7⟩ := h4.flushTx hw hop (hscript.dTxf.trans hdt)
  obtain ⟨v', h10⟩ := h7.flushRx hw hop (hscript.dRxf.trans hdr)
  rw [show k + 2 + 2 + (3 + dt) + (3 + dr) = k + (10 + dt + dr) by omega] at h10
  exact ⟨_, _, h10, writeOneToClear_self _, rfl, mockReadIntfl0_mctrl _ _ _, mockReadIntfl0_txlog _ _ _,
    fun hoff => (mockReadIntfl0_cStp _ _ _).trans (by rw [hoff]; rfl), mockReadIntfl0_rxbytes _ _ _⟩

end

/-! ### The address bytes -/

theorem push_isPut {i : Instr} {o : PushOperand} {x : Byte} (c : Config)
    (h : ∀ e, latched e = some i → pushByte o e = x) : IsPut (.push o) i c .fifo (zextByte x) := by
  rintro s - hl
  rw [← h s.eng hl]
  rfl

theorem wr_isPut (i : Instr) (c : Config) (r : Reg) (v : Word) : IsPut (.wr r v) i c r v := fun _ _ _ => rfl

theorem w1c_isPut (i : Instr) (c : Config) (r : Reg) (fb : FlagBit) : IsPut (.w1c r fb) i c r (c.mask fb) := by
  rintro s rfl -
  rfl

@[simp] theorem setWidth_zextByte (x : Byte) : (zextByte x).setWidth 8 = x := by
  simp [zextByte]

@[simp] theorem lowByte_setWidth (x : Byte) : lowByte (x.setWidth 32) = x := setWidth_zextByte x

/-- Steps 10 to 13 of every transaction (42_regwr.md R161). -/
theorem rowOf_address {i : Instr} (h : i.opcode ≠ 0x04#8) {n : Nat} (hn : n < 4) :
    rowOf i (10 + n) = addressTable[n]? := by
  have hall : ∀ k < 4, rowOf i (10 + k) = addressTable[k]? := by
    cases i with
    | init speed => exact absurd rfl h
    | _ => intro k hk; interval_cases k <;> rfl
  exact hall n hn

/-- A value read from MCTRL shows no STOP if the register holds none. -/
theorem mockReadMctrl_noStop {c : Config} {p : Periph} (h : p.mctrl &&& c.mStop = 0#32) (m : Mock) :
    (mockReadMctrl c p m).1 &&& c.mStop = 0#32 := by
  simp only [mockReadMctrl]
  split
  · rw [BitVec.and_assoc, BitVec.and_comm _ c.mStop, ← BitVec.and_assoc, h, BitVec.zero_and]
  · exact h

/-- No value written leaves STOP in MCTRL (20_memory.md R84). -/
theorem mctrl_write_noStop (c : Config) (v : Word) : v &&& ~~~(c.mStart ||| c.mStop) &&& c.mStop = 0#32 := by
  apply BitVec.eq_of_getLsbD_eq
  intro k hk
  simp [hk]

theorem anySet_orMask_other {v mask mask' : Word} (hv : v &&& mask' = 0#32) (hm : mask &&& mask' = 0#32) :
    anySet (orMask v mask) mask' = false := by
  rw [anySet_eq_false_iff, orMask, BitVec.and_or_distrib_right, hv, hm, BitVec.or_zero]

/-- What `SETB MCTRL, mask` leaves of the mock, `v` being the value read: the countdowns of the requests in the value
written are armed, and no byte is pushed or received. -/
structure Requested (c : Config) (mask v : Word) (p : Periph) (m m' : Mock) : Prop where
  noStop : p.mctrl &&& c.mStop = 0#32 → v &&& c.mStop = 0#32
  script : SameScript m m'
  txlog : m'.txlog = m.txlog
  rxbytes : m'.rxbytes = m.rxbytes
  cRxt : m'.cRxt = m.cRxt
  cStp : m'.cStp = if anySet (orMask v mask) c.mStop then m.dStp else m.cStp
  cRst : anySet (orMask v mask) c.mRestart = true → m'.cRst = m.dRst
  afterRestart : anySet (orMask v mask) c.mRestart = true → m'.afterRestart = true

section
variable {s0 : State} {i : Instr} {k n : Nat} {b addr reg : Byte} {p : Periph} {m : Mock}

/-- `SETB MCTRL, mask` (20_memory.md R84). -/
theorem Reached.setMctrl {fb : FlagBit} (h : Reached s0 i k n b p m) (hrow : rowOf i n = some (.setbRead .mctrl))
    (hrow' : rowOf i (n + 1) = some (.setbWrite .mctrl fb)) :
    ∃ v m', Reached s0 i (k + 2) (n + 2) b
        { p with mctrl := orMask v (s0.cfg.mask fb) &&& ~~~(s0.cfg.mStart ||| s0.cfg.mStop) } m' ∧
      Requested s0.cfg (s0.cfg.mask fb) v p m m' := by
  have hset := h.setBit hrow hrow' (x := mockReadMctrl s0.cfg p m) rfl
  refine ⟨_, _, hset, fun hstop => mockReadMctrl_noStop hstop m, ?_, ?_, ?_, ?_, ?_,
    fun hset => ?_, fun hset => ?_⟩
  · exact (mockRead_script (c := s0.cfg) (r := .mctrl) (p := p) rfl).trans (mockWrite_script _ .mctrl _ _ _)
  · exact mockWriteMctrl_txlog _ _ _ _
  · exact mockWriteMctrl_rxbytes _ _ _ _
  · exact mockWriteMctrl_cRxt _ _ _ _
  · exact mockWriteMctrl_cStp _ _ _ _
  · exact (mockWriteMctrl_cRst _ _ _ _).trans (if_pos hset)
  · exact (mockWriteMctrl_afterRestart _ _ _ _).trans (by rw [hset, Bool.true_or])

/-- What the address bytes leave: two bytes pushed, no flag, no byte received, and no STOP asked for. -/
structure Addressed (c : Config) (addr reg : Byte) (p p' : Periph) (m m' : Mock) : Prop where
  intfl0 : p'.intfl0 = p.intfl0
  rxFifo : p'.rxFifo = p.rxFifo
  noStop : p'.mctrl &&& c.mStop = 0#32
  txlog : m'.txlog = m.txlog ++ [addr, reg]
  rxbytes : m'.rxbytes = m.rxbytes
  cStp : p.mctrl &&& c.mStop = 0#32 → m'.cStp = m.cStp

/-- Steps 10 to 13 (42_regwr.md R161). -/
theorem Reached.address (h : Reached s0 i k 10 b p m) (hw : s0.cfg.wf = true) (hop : i.opcode ≠ 0x04#8)
    (haddr : ∀ e, latched e = some i → e.addr = addr) (hreg : ∀ e, latched e = some i → e.reg = reg) :
    ∃ p' m', Reached s0 i (k + 4) 14 b p' m' ∧ Addressed s0.cfg addr reg p p' m m' := by
  obtain ⟨-, -, hstart, -, -⟩ := wf_mctrlMasks hw
  have hrow (n : Nat) (hn : n < 4) := rowOf_address hop hn
  have h11 := h.put (hrow 0 (by decide)) (push_isPut (o := .addr) s0.cfg haddr)
  obtain ⟨v, m13, h13, hreq⟩ := h11.setMctrl (fb := .start) (hrow 1 (by decide)) (hrow 2 (by decide))
  have h14 := h13.put (hrow 3 (by decide)) (push_isPut (o := .reg) s0.cfg hreg)
  refine ⟨_, _, h14, rfl, rfl, mctrl_write_noStop _ _, ?_, hreq.rxbytes, fun hstop => ?_⟩
  · simp [mockWrite, mockWriteFifo, hreq.txlog]
  · exact hreq.cStp.trans (if_neg (by simpa [Config.mask] using anySet_orMask_other (hreq.noStop hstop) hstart))

end

/-! ### The end of a transaction: STOP, its wait, the evaluation -/

/-- What a read of INTFL0 leaves of the mock, the countdowns apart: without a byte pending, no byte is taken. -/
structure KeepsRx (m m' : Mock) : Prop where
  txlog : m'.txlog = m.txlog
  errinj : m'.errinj = m.errinj
  rx : m.cRxt = none → m'.cRxt = none ∧ m'.rxbytes = m.rxbytes

theorem KeepsRx.trans {m m' m'' : Mock} (h : KeepsRx m m') (h' : KeepsRx m' m'') : KeepsRx m m'' where
  txlog := h'.txlog.trans h.txlog
  errinj := h'.errinj.trans h.errinj
  rx hoff := by
    obtain ⟨hoff', hrx⟩ := h.rx hoff
    obtain ⟨hoff'', hrx'⟩ := h'.rx hoff'
    exact ⟨hoff'', hrx'.trans hrx⟩

theorem mockReadIntfl0_keepsRx (c : Config) (p : Periph) (m : Mock) : KeepsRx m (mockReadIntfl0 c p m).2.2 where
  txlog := mockReadIntfl0_txlog c p m
  errinj := (mockRead_script (c := c) (r := .intfl0) (p := p) rfl).errinj
  rx hoff := ⟨(mockReadIntfl0_cRxt c p m).trans (by rw [hoff]; rfl), mockReadIntfl0_rxbytes c p m hoff⟩

/-- `j` more reads of INTFL0 will show neither STOPF nor an error flag; the one after them raises STOPF and the error flags
of the script. -/
structure StopPending (c : Config) (m0 : Mock) (j : Nat) (p : Periph) (m : Mock) : Prop where
  stopf : p.intfl0 &&& c.mStopf = 0#32
  errors : p.intfl0 &&& errMask c = 0#32
  cStp : m.cStp = some j
  keeps : KeepsRx m0 m

/-- STOPF has been raised, and with it the error flags of the script. -/
structure Stopped (c : Config) (m0 : Mock) (p : Periph) (m : Mock) : Prop where
  errors : p.intfl0 &&& errMask c = errWord c m0.errinj &&& errMask c
  cStp : m.cStp = none
  keeps : KeepsRx m0 m

section
variable {c : Config} {m0 m : Mock} {p : Periph}

theorem StopPending.read {j : Nat} (h : StopPending c m0 (j + 1) p m) (hw : c.wf = true) :
    StopPending c m0 j (mockReadIntfl0 c p m).2.1 (mockReadIntfl0 c p m).2.2 := by
  obtain ⟨-, -, hstopf, herr, -⟩ := wf_polledFlags hw
  refine ⟨?_, ?_, ?_, h.keeps.trans (mockReadIntfl0_keepsRx c p m)⟩
  · simpa [mockReadIntfl0_and c p m hstopf, h.cStp, fires] using h.stopf
  · simpa [mockReadIntfl0_and c p m herr, h.cStp, fires] using h.errors
  · simp [h.cStp, ticked]

theorem StopPending.fire (h : StopPending c m0 0 p m) (hw : c.wf = true) :
    anySet (mockReadIntfl0 c p m).2.1.intfl0 c.mStopf = true ∧
      Stopped c m0 (mockReadIntfl0 c p m).2.1 (mockReadIntfl0 c p m).2.2 := by
  obtain ⟨-, hne, hstopf, herr, hstopErr⟩ := wf_polledFlags hw
  refine ⟨?_, ?_, ?_, h.keeps.trans (mockReadIntfl0_keepsRx c p m)⟩
  · rw [anySet, mockReadIntfl0_and c p m hstopf, h.cStp]
    simp [fires, BitVec.and_or_distrib_right, hne]
  · rw [mockReadIntfl0_and c p m herr, h.cStp]
    simp [fires, BitVec.and_or_distrib_right, h.errors, hstopErr, h.keeps.errinj]
  · simp [h.cStp, ticked]

theorem and_not_and {mask all : Word} (h : mask &&& all = 0#32) (v : Word) : v &&& ~~~mask &&& all = v &&& all := by
  apply BitVec.eq_of_getLsbD_eq
  intro k hk
  have hbit := congrArg (fun w : Word => w.getLsbD k) h
  simp [hk] at hbit ⊢
  grind

/-- The clearing of STOPF keeps the error flags. -/
theorem Stopped.clear (h : Stopped c m0 p m) (hw : c.wf = true) :
    Stopped c m0 (mockWrite c .intfl0 c.mStopf p m).1 (mockWrite c .intfl0 c.mStopf p m).2 := by
  obtain ⟨-, -, -, -, hstopErr⟩ := wf_polledFlags hw
  refine ⟨?_, h.cStp, h.keeps⟩
  exact (and_not_and hstopErr _).trans h.errors

theorem Stopped.read (h : Stopped c m0 p m) (hw : c.wf = true) :
    Stopped c m0 (mockReadIntfl0 c p m).2.1 (mockReadIntfl0 c p m).2.2 := by
  obtain ⟨-, -, -, herr, -⟩ := wf_polledFlags hw
  refine ⟨?_, by simp [h.cStp, ticked], h.keeps.trans (mockReadIntfl0_keepsRx c p m)⟩
  simpa [mockReadIntfl0_and c p m herr, h.cStp, fires] using h.errors

/-- The evaluation's status depends on the error bits only. -/
theorem evalStatus_eq {v w : Word} (h : v &&& errMask c = w &&& errMask c) :
    (if errorSeen c v then c.stCommErr else c.stOk) = transactionStatus c w := by
  by_cases h0 : w &&& errMask c = 0#32 <;> simp [errorSeen, anySet, transactionStatus, h, h0]

end

theorem eval_eq (s : State) :
    microStep .eval s = loadT .intfl0 s fun s' =>
      s'.complete (if errorSeen s.cfg s'.eng.t then s.cfg.stCommErr else s.cfg.stOk) := rfl

/-- `k` steps from `s0` lead to `t`, where a command has completed with status `st`. -/
structure MockDone (s0 : State) (k : Nat) (st : Word) (b : Byte) (m : Mock) (t : State) : Prop where
  run : stepN k s0 = .next t
  idle : t.eng.busy = false
  status : t.eng.status = st
  rdata : t.eng.rdata = b
  mock : t.mock = some m
  length : t.trace.length = s0.trace.length + k

section
variable {s0 : State} {i : Instr} {k n : Nat} {b : Byte} {p : Periph} {m : Mock}

/-- The last row of every transaction. -/
theorem Reached.eval {x : Word × Periph × Mock} (h : Reached s0 i k n b p m) (hrow : rowOf i n = some .eval)
    (hread : mockRead s0.cfg .intfl0 p m = some x) :
    ∃ t, MockDone s0 (k + 1) (if errorSeen s0.cfg x.1 then s0.cfg.stCommErr else s0.cfg.stOk) b x.2.2 t := by
  obtain ⟨t, h⟩ := h
  have hrun := h.read hrow (eval_eq t) hread
  exact ⟨_, hrun, rfl, by simp [h.cfg], h.rdata, rfl, by simp [h.length]; omega⟩

/-- The last five steps (42_regwr.md R161 steps 15 to 19): the wait takes one read more than the delay of STOP, and the
status tells whether the script injects an error flag. -/
theorem Reached.stop {d : Nat} (h : Reached s0 i k n b p m) (hw : s0.cfg.wf = true)
    (hrow : ∀ j < 5, rowOf i (n + j) = stopTable[j]?) (hclear : p.intfl0 = 0#32) (hd : m.dStp = some d) :
    ∃ t m', MockDone s0 (k + (5 + d)) (transactionStatus s0.cfg (errWord s0.cfg m.errinj)) b m' t ∧ KeepsRx m m' := by
  obtain ⟨-, hstop, -⟩ := wf_mctrlMasks hw
  obtain ⟨v, m2, h2, hreq⟩ := h.setMctrl (fb := .stop) (hrow 0 (by decide)) (hrow 1 (by decide))
  have hkeeps : KeepsRx m m2 :=
    ⟨hreq.txlog, hreq.script.errinj, fun hoff => ⟨hreq.cRxt.trans hoff, hreq.rxbytes⟩⟩
  have hpending : StopPending s0.cfg m d
      { p with mctrl := orMask v s0.cfg.mStop &&& ~~~(s0.cfg.mStart ||| s0.cfg.mStop) } m2 :=
    ⟨by simp [hclear], by simp [hclear], (hreq.cStp.trans (if_pos (anySet_orMask hstop v))).trans hd, hkeeps⟩
  obtain ⟨p3, m3, h3, hstopped⟩ := h2.wait (hrow 2 (by decide)) (poll1_isWait s0.cfg .intfl0 .stopf)
    (A := StopPending s0.cfg m) (B := Stopped s0.cfg m) hpending
    (fun j p m h => ⟨_, _, _, rfl, anySet_eq_false_iff.2 (h.read hw).stopf, h.read hw⟩)
    (fun p m h => ⟨_, _, _, rfl, h.fire hw⟩)
  have h4 := h3.put (hrow 3 (by decide)) (w1c_isPut i s0.cfg .intfl0 .stopf)
  have hcleared := hstopped.clear hw
  simp only [Config.mask] at h4
  obtain ⟨t, h5⟩ := h4.eval (hrow 4 (by decide)) (x := mockReadIntfl0 _ _ _) rfl
  have hread := hcleared.read hw
  have hstatus := evalStatus_eq hread.errors
  rw [show k + 2 + (d + 1) + 1 + 1 = k + (5 + d) by omega] at h5
  exact ⟨t, _, hstatus ▸ h5, hread.keeps⟩

end

/-! ### Whole transactions against the mock -/

/-- Wherever a run stands, the mock has the script it began with. -/
theorem Reached.script {s0 : State} {i : Instr} {k n : Nat} {b : Byte} {p : Periph} {m m' : Mock}
    (h : Reached s0 i k n b p m') (hm : s0.mock = some m) : SameScript m m' := by
  obtain ⟨t, h⟩ := h
  obtain ⟨m1, hm1, hscript⟩ := (stepN_keepsMock h.run).2 m hm
  cases h.mock.symm.trans hm1
  exact hscript

theorem reached_issue {s : State} {i : Instr} {m : Mock} (hs : Idle s) (hin : s.input = none) (hm : s.mock = some m)
    (hfirst : firstStep i = 0) : Reached (s.issue i) i 0 0 s.eng.rdata s.periph m :=
  ⟨_, rfl, ⟨hs.1, rfl, latched_issue s i, hfirst⟩, rfl, hin, issue_eng_rdata s i, rfl, hm, rfl⟩

/-- Settles O57: FLUSH, the address bytes, the value byte, and the end of the transaction. -/
theorem regwrCompletesOnTheMock : Obligations.RegwrCompletesOnTheMock := by
  intro s m addr reg val dt dr ds hs hin hm hdt hdr hds
  have hop : (Instr.regwr addr reg val).opcode ≠ 0x04#8 := by simp [Instr.opcode]
  have hw : (s.issue (.regwr addr reg val)).cfg.wf = true := hs.1
  obtain ⟨p10, m10, h10, hflush⟩ := (reached_issue hs hin hm rfl).flush hw hop hdt hdr
  obtain ⟨p14, m14, h14, haddress⟩ := h10.address hw hop (addr := addr) (reg := reg)
    (fun e hl => (latched_regwr hl).1) (fun e hl => (latched_regwr hl).2.1)
  have h15 := h14.put (ms := .push .val) rfl (push_isPut _ fun e hl => (latched_regwr hl).2.2)
  have hscript := h15.script hm
  obtain ⟨t, m', hdone, hkeeps⟩ := h15.stop hw (fun j hj => by interval_cases j <;> rfl)
    (haddress.intfl0.trans hflush.intfl0) (hscript.dStp.trans hds)
  rw [show 0 + (10 + dt + dr) + 4 + 1 + (5 + ds) = 20 + dt + dr + ds by omega, hscript.errinj] at hdone
  refine ⟨t, m', (issueAndRun_idle hs _).trans hdone.run, hdone.idle, hdone.status, hdone.mock, ?_, ?_, hdone.rdata⟩
  · rw [hkeeps.txlog]
    simp [mockWrite, mockWriteFifo, haddress.txlog, hflush.txlog]
  · have := hdone.length
    simp only [issue_trace] at this
    omega

/-! ### The read part of REGRD (44_regrd.md R181) -/

/-- While no STOP is pending a read of INTFL0 only counts down to the byte. -/
theorem mockRead_intfl0_waits (c : Config) (p : Periph) (m : Mock) (j : Nat) (hstp : m.cStp = none) :
    mockRead c .intfl0 p { m with cRxt := some (j + 1) } = some (p.intfl0, p, { m with cRxt := some j }) := by
  simp [mockRead, mockReadIntfl0, mockTickRxt, mockTickStp, fires, ticked, hstp]

/-- The read that delivers one byte to an empty RX FIFO (20_memory.md R86). -/
theorem mockRead_intfl0_delivers (c : Config) (p : Periph) (m : Mock) {x : Byte} {xs : List Byte}
    (hstp : m.cStp = none) (hcnt : p.rxcnt = 1#32) (hempty : p.rxFifo = []) (hrx : m.rxbytes = x :: xs) :
    mockRead c .intfl0 p { m with cRxt := some 0 } =
      some (p.intfl0 ||| c.mRxthrf, { p with rxFifo := [x], intfl0 := p.intfl0 ||| c.mRxthrf },
        { m with rxbytes := xs, cRxt := none }) := by
  simp [mockRead, mockReadIntfl0, mockTickRxt, mockTickStp, fires, ticked, hstp, hcnt, hempty, hrx, bitField]

section
variable {s0 : State} {k n : Nat} {i : Instr} {b addr reg x : Byte} {xs : List Byte} {p : Periph} {m : Mock}

theorem pop_eq (s : State) :
    microStep .pop s = loadT .fifo s fun s' => (s'.setRdata (lowByte s'.eng.t)).advance := rfl

/-- `POP`: `RDATA` holds the low byte of the value read (40_microops.md R137). -/
theorem Reached.pop {x : Word × Periph × Mock} (h : Reached s0 i k n b p m) (hrow : rowOf i n = some .pop)
    (hread : mockRead s0.cfg .fifo p m = some x) : Reached s0 i (k + 1) (n + 1) (lowByte x.1) x.2.1 x.2.2 := by
  obtain ⟨t, h⟩ := h
  have hrun := h.read hrow (pop_eq t) hread
  obtain ⟨hw, hb, hl, hn⟩ := h.running
  exact ⟨_, hrun, ⟨hw, hb, hl, congrArg (· + 1) hn⟩, h.cfg, h.input, rfl, rfl, rfl, by simp [h.length]; omega⟩

/-- RESTART is among the requests of a value written with its bit, and stays set (20_memory.md R84). -/
theorem anySet_restart_written {c : Config} (hw : c.wf = true) (v : Word) :
    anySet (orMask v c.mRestart &&& ~~~(c.mStart ||| c.mStop)) c.mRestart = true := by
  obtain ⟨hne, -, -, hstart, hstop⟩ := wf_mctrlMasks hw
  have hdisjoint : (c.mStart ||| c.mStop) &&& c.mRestart = 0#32 := by
    rw [BitVec.and_comm, BitVec.and_or_distrib_left, hstart, hstop, BitVec.or_zero]
  rw [anySet_eq_true_iff, and_not_and hdisjoint]
  exact anySet_eq_true_iff.1 (anySet_orMask hne v)

/-- Steps 14 to 17: RESTART, and a wait of one read more than its delay. -/
theorem Reached.restart {d : Nat} (h : Reached s0 (.regrd addr reg) k 14 b p m) (hw : s0.cfg.wf = true)
    (hstop : p.mctrl &&& s0.cfg.mStop = 0#32) (hd : m.dRst = some d) :
    ∃ v m', Reached s0 (.regrd addr reg) (k + (4 + d)) 18 b { p with rxcnt := 1#32, mctrl := v } m' ∧
      m'.afterRestart = true ∧ m'.txlog = m.txlog ∧ m'.rxbytes = m.rxbytes ∧ m'.cStp = m.cStp := by
  obtain ⟨hne, -, -, -, hrestartStop⟩ := wf_mctrlMasks hw
  have h15 := h.put (ms := .wr .rxcnt 1#32) rfl (wr_isPut _ _ _ _)
  obtain ⟨v, m17, h17, hreq⟩ := h15.setMctrl (fb := .restart) rfl rfl
  simp only [Config.mask] at h17 hreq
  have hset := anySet_orMask hne v
  have hnoStop := anySet_orMask_other (hreq.noStop hstop) hrestartStop
  have h18 := h17.countdown (fun o => { m17 with cRst := o }) (o := m17.cRst) ((hreq.cRst hset).trans hd) rfl
    (poll0_isWait s0.cfg .mctrl .restart) (v := orMask v s0.cfg.mRestart &&& ~~~(s0.cfg.mStart ||| s0.cfg.mStop))
    (fun j => rfl) (by simp [Config.mask, anySet_restart_written hw]) rfl (by simp [Config.mask, fires])
  rw [show k + 1 + 2 + (d + 1) = k + (4 + d) by omega] at h18
  exact ⟨_, _, h18, hreq.afterRestart hset, hreq.txlog, hreq.rxbytes, hreq.cStp.trans (if_neg (by simp [hnoStop]))⟩

/-- The read address starts the countdown to the byte: it is the first push after RESTART, and its bit 0 is set
(20_memory.md R85). -/
theorem mockWrite_readAddress (c : Config) (p : Periph) {m : Mock} (h : m.afterRestart = true) (a : Byte) :
    mockWrite c .fifo (zextByte (readAddress a)) p m =
      ({ p with txFifo := p.txFifo ++ [readAddress a] },
        { m with txlog := m.txlog ++ [readAddress a], afterRestart := false, cRxt := m.dRxt }) := by
  have hbit : (zextByte (readAddress a)).getLsbD 0 = true := by simp [zextByte, readAddress]
  simp [mockWrite, mockWriteFifo, h, hbit, armed]

/-- Steps 18 to 21: the read address starts the countdown to the byte, which the wait ends with and `POP` takes. -/
theorem Reached.receive {d : Nat} (h : Reached s0 (.regrd addr reg) k 18 b p m) (hw : s0.cfg.wf = true)
    (hafter : m.afterRestart = true) (hstp : m.cStp = none) (hd : m.dRxt = some d) (hclear : p.intfl0 = 0#32)
    (hempty : p.rxFifo = []) (hcnt : p.rxcnt = 1#32) (hrx : m.rxbytes = x :: xs) :
    ∃ p' m', Reached s0 (.regrd addr reg) (k + (4 + d)) 22 x p' m' ∧ p'.intfl0 = 0#32 ∧
      m'.txlog = m.txlog ++ [addr ||| 0x01#8] ∧ m'.rxbytes = xs ∧ m'.cRxt = none := by
  obtain ⟨hne, -⟩ := wf_polledFlags hw
  have h19 := h.put (ms := .push .addrRead) rfl
    (push_isPut (x := readAddress addr) _ fun e hl => by rw [← (latched_regrd hl).1]; rfl)
  rw [mockWrite_readAddress _ _ hafter] at h19
  have h20 := h19.countdown
    (fun o => { m with txlog := m.txlog ++ [readAddress addr], afterRestart := false, cRxt := o }) hd rfl
    (poll1_isWait s0.cfg .intfl0 .rxthrf)
    (fun j => mockRead_intfl0_waits _ _ { m with txlog := _, afterRestart := _ } _ hstp)
    (by simp [hclear, anySet])
    (mockRead_intfl0_delivers _ _ { m with txlog := _, afterRestart := _ } hstp hcnt hempty hrx)
    (by simpa [hclear, anySet, Config.mask] using hne)
  have h21 := h20.pop (x := (x.setWidth 32, _, _)) rfl rfl
  have h22 := h21.put (ms := .w1c .intfl0 .rxthrf) rfl (w1c_isPut _ _ _ _)
  rw [show k + 1 + (d + 1) + 1 + 1 = k + (4 + d) by omega, lowByte_setWidth] at h22
  exact ⟨_, _, h22, by simp [mockWrite, Config.mask, hclear, writeOneToClear], rfl, rfl, rfl⟩

end

/-- Settles O58: FLUSH, the address bytes, RESTART and its wait, the byte, and the end of the transaction. -/
theorem regrdCompletesOnTheMock : Obligations.RegrdCompletesOnTheMock := by
  intro s m addr reg b bs dt dr da dx ds hs hin hm hrx hrxt hstp hmctrl hdt hdr hda hdx hds
  have hop : (Instr.regrd addr reg).opcode ≠ 0x04#8 := by simp [Instr.opcode]
  have hw : (s.issue (.regrd addr reg)).cfg.wf = true := hs.1
  obtain ⟨p10, m10, h10, hflush⟩ := (reached_issue hs hin hm rfl).flush hw hop hdt hdr
  obtain ⟨p14, m14, h14, haddress⟩ := h10.address hw hop (addr := addr) (reg := reg)
    (fun e hl => (latched_regrd hl).1) (fun e hl => (latched_regrd hl).2)
  have hmctrl10 : p10.mctrl &&& s.cfg.mStop = 0#32 := by rw [hflush.mctrl, hmctrl]
  obtain ⟨v, m18, h18, hafter, hlog18, hrx18, hstp18⟩ :=
    h14.restart hw haddress.noStop ((h14.script hm).dRst.trans hda)
  have hstpOff : m18.cStp = none := by rw [hstp18, haddress.cStp hmctrl10, hflush.cStp hstp]
  have hrx18' : m18.rxbytes = b :: bs := by rw [hrx18, haddress.rxbytes, hflush.rxbytes hrxt, hrx]
  obtain ⟨p22, m22, h22, hclear, hlog22, hrx22, hrxt22⟩ := h18.receive hw hafter hstpOff
    ((h18.script hm).dRxt.trans hdx) (haddress.intfl0.trans hflush.intfl0) (haddress.rxFifo.trans hflush.rxFifo) rfl
    hrx18'
  have hscript := h22.script hm
  obtain ⟨t, m', hdone, hkeeps⟩ :=
    h22.stop hw (fun j hj => by interval_cases j <;> rfl) hclear (hscript.dStp.trans hds)
  rw [show 0 + (10 + dt + dr) + 4 + (4 + da) + (4 + dx) + (5 + ds) = 27 + dt + dr + da + dx + ds by omega,
    hscript.errinj] at hdone
  refine ⟨t, m', (issueAndRun_idle hs _).trans hdone.run, hdone.idle, hdone.status, hdone.rdata, hdone.mock, ?_, ?_, ?_⟩
  · rw [(hkeeps.rx hrxt22).2, hrx22]
  · simp [hkeeps.txlog, hlog22, hlog18, haddress.txlog, hflush.txlog]
  · have := hdone.length
    simp only [issue_trace] at this
    omega

end Sys2Proof.Machine

/-! Proofs of the statements of 30_encoding.md: word 0 and the masks of the opcode map, decoding as the inverse of encoding
both ways, and what a step does with an action that arrives. -/

namespace Sys2Proof

/-! ### Word 0 and its fields (30_encoding.md R102 to R104) -/

/-- A word is determined by its four fields. -/
theorem eq_packWord0_iff {w : Word} {v r a o : Byte} :
    w = packWord0 v r a o ↔ fieldOpc w = o ∧ fieldAddr w = a ∧ fieldReg w = r ∧ fieldVal w = v := by
  constructor
  · rintro rfl
    simp
  · rintro ⟨rfl, rfl, rfl, rfl⟩
    exact (pack_fields w).symm

theorem word0_regwr_fields {w : Word} (hopc : fieldOpc w = 0x01#8) :
    (Instr.regwr (fieldAddr w) (fieldReg w) (fieldVal w)).word0 = w :=
  (eq_packWord0_iff.2 ⟨hopc, rfl, rfl, rfl⟩).symm

theorem word0_bufwr_fields {w : Word} (hopc : fieldOpc w = 0x02#8) (hval : fieldVal w = 0#8) (len : Word) :
    (Instr.bufwr (fieldAddr w) (fieldReg w) len).word0 = w :=
  (eq_packWord0_iff.2 ⟨hopc, rfl, rfl, hval⟩).symm

theorem word0_regrd_fields {w : Word} (hopc : fieldOpc w = 0x03#8) (hval : fieldVal w = 0#8) :
    (Instr.regrd (fieldAddr w) (fieldReg w)).word0 = w :=
  (eq_packWord0_iff.2 ⟨hopc, rfl, rfl, hval⟩).symm

theorem word0_init_fields {w : Word} (hopc : fieldOpc w = 0x04#8) (hval : fieldVal w = 0#8) (hreg : fieldReg w = 0#8)
    (haddr : fieldAddr w = 0#8) (speed : Word) : (Instr.init speed).word0 = w :=
  (eq_packWord0_iff.2 ⟨hopc, haddr, hreg, hval⟩).symm

theorem encode_regwr (addr reg val : Byte) :
    encode (.regwr addr reg val) = bytesOfWord (Instr.word0 (.regwr addr reg val)) := List.append_nil _

theorem encode_bufwr (addr reg : Byte) (len : Word) :
    encode (.bufwr addr reg len) = bytesOfWord (Instr.word0 (.bufwr addr reg len)) ++ bytesOfWord len := by
  simp [encode, encodeWords]

theorem encode_regrd (addr reg : Byte) :
    encode (.regrd addr reg) = bytesOfWord (Instr.word0 (.regrd addr reg)) := List.append_nil _

theorem encode_init (speed : Word) :
    encode (.init speed) = bytesOfWord (Instr.word0 (.init speed)) ++ bytesOfWord speed := by
  simp [encode, encodeWords]

/-- The bytes of word 0 stand first in a command's encoding (30_encoding.md R101). -/
theorem takeWord_encode (i : Instr) (rest : List Byte) : ∃ tail, takeWord (encode i ++ rest) = some (i.word0, tail) := by
  cases i with
  | regwr addr reg val => exact ⟨_, by rw [encode_regwr, takeWord_bytesOfWord]⟩
  | bufwr addr reg len => exact ⟨_, by rw [encode_bufwr, List.append_assoc, takeWord_bytesOfWord]⟩
  | regrd addr reg => exact ⟨_, by rw [encode_regrd, takeWord_bytesOfWord]⟩
  | init speed => exact ⟨_, by rw [encode_init, List.append_assoc, takeWord_bytesOfWord]⟩

/-! ### The masks of the opcode map (30_encoding.md R105) -/

theorem fieldOpc_and (w m : Word) : fieldOpc (w &&& m) = fieldOpc w &&& fieldOpc m := BitVec.extractLsb'_and

theorem fieldAddr_and (w m : Word) : fieldAddr (w &&& m) = fieldAddr w &&& fieldAddr m := BitVec.extractLsb'_and

theorem fieldReg_and (w m : Word) : fieldReg (w &&& m) = fieldReg w &&& fieldReg m := BitVec.extractLsb'_and

theorem fieldVal_and (w m : Word) : fieldVal (w &&& m) = fieldVal w &&& fieldVal m := BitVec.extractLsb'_and

/-- A mask, and a pattern, act field by field. -/
theorem and_packWord0_eq_iff {w : Word} {v r a o v' r' a' o' : Byte} :
    w &&& packWord0 v r a o = packWord0 v' r' a' o' ↔
      fieldOpc w &&& o = o' ∧ fieldAddr w &&& a = a' ∧ fieldReg w &&& r = r' ∧ fieldVal w &&& v = v' := by
  simp [eq_packWord0_iff, fieldOpc_and, fieldAddr_and, fieldReg_and, fieldVal_and]

@[simp] theorem byte_and_ones (b : Byte) : b &&& 0xFF#8 = b := BitVec.and_allOnes

@[simp] theorem word_and_ones (w : Word) : w &&& 0xFFFFFFFF#32 = w := BitVec.and_allOnes

/-- The mask that covers bits [7:0] alone. -/
theorem and_opcMask_eq_iff {w : Word} {o : Byte} :
    w &&& 0x000000FF#32 = packWord0 0#8 0#8 0#8 o ↔ fieldOpc w = o := by
  have hmask : 0x000000FF#32 = packWord0 0#8 0#8 0#8 0xFF#8 := rfl
  simp [hmask, and_packWord0_eq_iff]

/-- The mask that covers bits [7:0] and [31:24]. -/
theorem and_opcValMask_eq_iff {w : Word} {o : Byte} :
    w &&& 0xFF0000FF#32 = packWord0 0#8 0#8 0#8 o ↔ fieldOpc w = o ∧ fieldVal w = 0#8 := by
  have hmask : 0xFF0000FF#32 = packWord0 0xFF#8 0#8 0#8 0xFF#8 := rfl
  simp [hmask, and_packWord0_eq_iff]

/-- The operation code of a word is that of its row's pattern: every row's mask covers bits [7:0]. -/
theorem fieldOpc_of_row {w : Word} {r : OpcodeRow} (hr : r ∈ opcodeTable) (h : w &&& r.mask = r.pattern) :
    fieldOpc w = fieldOpc r.pattern := by
  have hmask : ∀ r ∈ opcodeTable, fieldOpc r.mask = 0xFF#8 := by decide
  calc fieldOpc w = fieldOpc w &&& fieldOpc r.mask := by rw [hmask r hr, byte_and_ones]
    _ = fieldOpc (w &&& r.mask) := (fieldOpc_and w r.mask).symm
    _ = fieldOpc r.pattern := by rw [h]

/-- The rows' operation codes are distinct. -/
theorem row_eq_of_fieldOpc_eq :
    ∀ r ∈ opcodeTable, ∀ r' ∈ opcodeTable, fieldOpc r.pattern = fieldOpc r'.pattern → r = r' := by
  decide

/-- Word 0 of every command belongs to a row of the opcode map. -/
theorem exists_row_of_word0 (i : Instr) : ∃ r ∈ opcodeTable, i.word0 &&& r.mask = r.pattern := by
  cases i with
  | regwr addr reg val => exact ⟨_, .head _, and_opcMask_eq_iff.2 (fieldOpc_pack _ _ _ _)⟩
  | bufwr addr reg len =>
    exact ⟨_, .tail _ (.head _), and_opcValMask_eq_iff.2 ⟨fieldOpc_pack _ _ _ _, fieldVal_pack _ _ _ _⟩⟩
  | regrd addr reg =>
    exact ⟨_, .tail _ (.tail _ (.head _)), and_opcValMask_eq_iff.2 ⟨fieldOpc_pack _ _ _ _, fieldVal_pack _ _ _ _⟩⟩
  | init speed => exact ⟨_, .tail _ (.tail _ (.tail _ (.head _))), word_and_ones _⟩

/-! ### Decoding inverts encoding, both ways (30_encoding.md R101, R107, R108) -/

theorem withWord1_bytesOfWord (w : Word) (rest : List Byte) (f : Word → Instr) :
    withWord1 (bytesOfWord w ++ rest) f = .ok (f w, rest) := by
  simp [withWord1, takeWord_bytesOfWord]

theorem withWord1_eq_ok {bytes rest : List Byte} {f : Word → Instr} {i : Instr}
    (h : withWord1 bytes f = .ok (i, rest)) : ∃ w, f w = i ∧ bytesOfWord w ++ rest = bytes := by
  unfold withWord1 at h
  split at h
  · rename_i w rest' htake
    cases h
    exact ⟨w, rfl, (takeWord_some htake).symm⟩
  · cases h

theorem decode_encode (i : Instr) (rest : List Byte) : decode (encode i ++ rest) = .ok (i, rest) := by
  cases i with
  | regwr addr reg val => simp [decode, encode_regwr, takeWord_bytesOfWord, Instr.word0]
  | bufwr addr reg len =>
    simp [decode, encode_bufwr, takeWord_bytesOfWord, withWord1_bytesOfWord, Instr.word0]
  | regrd addr reg => simp [decode, encode_regrd, takeWord_bytesOfWord, Instr.word0]
  | init speed => simp [decode, encode_init, takeWord_bytesOfWord, withWord1_bytesOfWord, Instr.word0]

/-- What decoding answers, whole: along `decode`'s branches, the word that was taken is the command's own word 0. -/
theorem encode_of_decode {bytes rest : List Byte} {i : Instr} (h : decode bytes = .ok (i, rest)) :
    encode i ++ rest = bytes := by
  unfold decode at h
  split at h
  · cases h
  · rename_i w tail htake
    rw [takeWord_some htake]
    split at h
    · rename_i hopc
      cases h
      rw [encode_regwr, word0_regwr_fields hopc]
    split at h
    · rename_i hopc
      split at h
      · rename_i hval
        obtain ⟨len, rfl, rfl⟩ := withWord1_eq_ok h
        rw [encode_bufwr, word0_bufwr_fields hopc hval, List.append_assoc]
      · cases h
    split at h
    · rename_i hopc
      split at h
      · rename_i hval
        cases h
        rw [encode_regrd, word0_regrd_fields hopc hval]
      · cases h
    split at h
    · rename_i hopc
      split at h
      · rename_i hzero
        obtain ⟨hval, hreg, haddr⟩ := hzero
        obtain ⟨speed, rfl, rfl⟩ := withWord1_eq_ok h
        rw [encode_init, word0_init_fields hopc hval hreg haddr, List.append_assoc]
      · cases h
    · cases h

/-- A word 0 of no row encodes no command (30_encoding.md R107): a command's word 0 is of one. -/
theorem decode_of_no_row {w : Word} (h : ∀ r ∈ opcodeTable, w &&& r.mask ≠ r.pattern) (rest : List Byte) :
    ∃ e, decode (bytesOfWord w ++ rest) = .error e := by
  cases hd : decode (bytesOfWord w ++ rest) with
  | error e => exact ⟨e, rfl⟩
  | ok x =>
    obtain ⟨i, rest'⟩ := x
    obtain ⟨tail, htake⟩ := takeWord_encode i rest'
    rw [encode_of_decode hd, takeWord_bytesOfWord] at htake
    cases htake
    obtain ⟨r, hr, hrow⟩ := exists_row_of_word0 i
    exact absurd hrow (h r hr)

/-- Settles O5: the fields of a packed word 0 are the command's, and word 1 follows it. -/
theorem decodeOfEncode : Obligations.DecodeOfEncode :=
  fun i rest _ => decode_encode i rest

/-- Settles O6: every bit of word 0 is in a field that decoding reads or requires to be zero. -/
theorem encodeOfDecode : Obligations.EncodeOfDecode := by
  intro bytes rest i h
  exact ⟨encode_of_decode h, by cases i <;> rfl⟩

/-- Settles O3: a row's mask and pattern fix the fields that make `w` a command's own word 0, so decoding is the inverse
of that command's encoding. -/
theorem opcodeMapDecidesTheCommand : Obligations.OpcodeMapDecidesTheCommand := by
  refine ⟨fun w r hr r' hr' h h' => ?_, fun w w1 rest => ⟨fun h => ?_, fun h => ?_, fun h => ?_, fun h => ?_, ?_⟩⟩
  · exact row_eq_of_fieldOpc_eq r hr r' hr' ((fieldOpc_of_row hr h).symm.trans (fieldOpc_of_row hr' h'))
  · have hopc := (and_opcMask_eq_iff (o := 0x01#8)).1 h
    have hdec := decode_encode (.regwr (fieldAddr w) (fieldReg w) (fieldVal w)) rest
    rwa [encode_regwr, word0_regwr_fields hopc] at hdec
  · obtain ⟨hopc, hval⟩ := (and_opcValMask_eq_iff (o := 0x02#8)).1 h
    have hdec := decode_encode (.bufwr (fieldAddr w) (fieldReg w) w1) rest
    rwa [encode_bufwr, word0_bufwr_fields hopc hval] at hdec
  · obtain ⟨hopc, hval⟩ := (and_opcValMask_eq_iff (o := 0x03#8)).1 h
    have hdec := decode_encode (.regrd (fieldAddr w) (fieldReg w)) rest
    rwa [encode_regrd, word0_regrd_fields hopc hval] at hdec
  · have hdec := decode_encode (.init w1) rest
    subst h
    rwa [encode_init] at hdec
  · intro hregwr hbufwr hregrd hinit
    exact decode_of_no_row (by simpa [opcodeTable] using ⟨hregwr, hbufwr, hregrd, hinit⟩) rest

end Sys2Proof

namespace Sys2Proof.Machine

/-! ### An action that arrives (20_memory.md R62, R75, R76; 30_encoding.md R109; 70_reset_and_hazards.md R245) -/

/-- An action that has arrived is taken, and leaves the port. -/
theorem step_arrival {s : State} {a : HostAction} (h : s.input = some a) :
    step s = hostAct a { s with input := none } := by
  simp [step, turn, h]

theorem step_present_command {s : State} {bytes rest : List Byte} {i : Instr} (hin : s.input = some (.present bytes))
    (hb : s.eng.busy = false) (hd : decode bytes = .ok (i, rest)) : step s = exec i { s with input := none } := by
  simp [step_arrival hin, hostAct, present, hb, hd]

theorem step_present_illegal {s : State} {bytes : List Byte} {e : DecodeError} (hin : s.input = some (.present bytes))
    (hb : s.eng.busy = false) (hd : decode bytes = .error e) : step s = .refused (.illegalDescriptor e) := by
  simp [step_arrival hin, hostAct, present, hb, hd]

theorem step_present_busy {s : State} {bytes : List Byte} (hin : s.input = some (.present bytes))
    (hb : s.eng.busy = true) : step s = .refused .issueWhileBusy := by
  simp [step_arrival hin, hostAct, present, hb]

/-- While `BUSY` is 1 whatever arrives but a descriptor breaks the exclusive access premise. -/
theorem step_intrusion {s : State} {a : HostAction} (hin : s.input = some a) (ha : ∀ bytes, a ≠ .present bytes)
    (hb : s.eng.busy = true) : step s = .refused .exclusiveAccessViolated := by
  rw [step_arrival hin]
  cases a with
  | present bytes => exact absurd rfl (ha bytes)
  | storeByte i b | passBuffer buf | foreignAccess => simp [hostAct, hb]

theorem step_store {s : State} {i : Nat} {b : Byte} (hin : s.input = some (.storeByte i b)) (hb : s.eng.busy = false)
    (hi : i < s.cfg.bufcap) : step s = .next { s with input := none, payload := s.payload.write i b } := by
  simp [step_arrival hin, hostAct, hb, hi]

theorem step_store_outside {s : State} {i : Nat} {b : Byte} (hin : s.input = some (.storeByte i b))
    (hb : s.eng.busy = false) (hi : s.cfg.bufcap ≤ i) : step s = .fault .outsidePayloadBuffer := by
  simp [step_arrival hin, hostAct, hb, Nat.not_lt.2 hi]

theorem step_passBuffer {s : State} {buf : List Byte} (hin : s.input = some (.passBuffer buf))
    (hb : s.eng.busy = false) :
    step s = .next { s with input := none, payload := Memory.ofBuffer s.cfg.bufcap buf } := by
  simp [step_arrival hin, hostAct, hb]

theorem step_foreignAccess {s : State} (hin : s.input = some .foreignAccess) (hb : s.eng.busy = false) :
    step s = .next { s with input := none } := by
  simp [step_arrival hin, hostAct, hb]

/-! ### The statements on steps -/

/-- Settles O4: the descriptor does not decode, and an idle engine refuses what does not. -/
theorem illegalDescriptorIsRefused : Obligations.IllegalDescriptorIsRefused := by
  intro s w rest hb hin hrow
  obtain ⟨e, he⟩ := decode_of_no_row hrow rest
  exact ⟨e, step_present_illegal hin hb he⟩

/-- Settles O7: an idle engine issues, which latches the command field by field; a busy one refuses before it decodes. -/
theorem issueLatchesTheCommand : Obligations.IssueLatchesTheCommand :=
  ⟨fun _ _ _ _ hidle => exec_idle hidle, fun _ _ _ _ hidle => exec_idle hidle, fun _ _ _ hidle => exec_idle hidle,
    fun _ _ hidle => exec_idle hidle,
    fun _ i rest hb _ hin => step_present_command hin hb (decode_encode i rest),
    fun _ _ hb hin => step_present_busy hin hb⟩

/-- Settles O11: one rule for each action that arrives, idle or busy, and what the space reads as after a store and after
a buffer. -/
theorem hostStoresPayloadWhileIdle : Obligations.HostStoresPayloadWhileIdle := by
  intro s i b
  refine ⟨fun hb hin hi => ⟨step_store hin hb hi, ?_, ?_⟩, ?_, ?_, ?_, ?_, ?_, ?_⟩
  · exact Memory.read_write_same _ _ _
  · exact fun j hj => Memory.read_write_other _ _ hj
  · exact fun hb hin hi => step_store_outside hin hb hi
  · exact fun hb hin => step_intrusion hin nofun hb
  · exact fun buf hb hin => ⟨_, step_passBuffer hin hb, Memory.read_ofBuffer _ _⟩
  · exact fun buf hb hin => step_intrusion hin nofun hb
  · exact fun hb hin => step_intrusion hin nofun hb
  · exact fun hb hin => step_foreignAccess hin hb

end Sys2Proof.Machine

/-! Proofs of the statements of 40_microops.md: what each micro-operation does when PERIPHERAL's next move is queued,
where the step tables hold it, and the statements that rest on both. -/

namespace Sys2Proof.Machine

/-! ### One access of a micro-step, PERIPHERAL's next move being queued -/

section
variable {s : State} {p q : Periph} {ps : List Periph}

theorem loadT_queued (hw : s.cfg.wf = true) (hm : s.mock = none) (ht : s.turns = p :: ps) (r : Reg)
    (k : State → State) :
    loadT r s k = .next (k { s with
      eng := { s.eng with t := periphReadValue r p }
      periph := periphAfterRead r p
      turns := ps
      trace := s.trace ++ [.read r (periphReadValue r p)] }) := by
  rw [loadT, memRead_queued hw hm ht, andThen_next]
  rfl

theorem store_queued (hw : s.cfg.wf = true) (hm : s.mock = none) (ht : s.turns = p :: ps) (r : Reg) (v : Word)
    (k : State → State) :
    store r v s k = .next (k { s with
      periph := periphAfterWrite r v p
      turns := ps
      trace := s.trace ++ [.write r v] }) := by
  rw [store, memWrite_queued hw hm ht, andThen_next]

/-- A read-modify-write is two accesses, with a move of PERIPHERAL before each (20_memory.md R64). -/
theorem readModifyWrite_queued (hw : s.cfg.wf = true) (hm : s.mock = none) (ht : s.turns = p :: q :: ps) (r : Reg)
    {ms : MicroStep} (f : Word → Word)
    (hms : ∀ s1 : State, s1.cfg = s.cfg → microStep ms s1 = store r (f s1.eng.t) s1 State.advance) :
    andThen (readHalf r s) (microStep ms) = .next { s with
      eng := { s.eng with t := periphReadValue r p, upc := s.eng.upc + 2 }
      periph := periphAfterWrite r (f (periphReadValue r p)) q
      turns := ps
      trace := s.trace ++ [.read r (periphReadValue r p), .write r (f (periphReadValue r p))] } := by
  rw [readHalf, loadT_queued hw hm ht, andThen_next]
  refine (hms _ (by rfl)).trans ((store_queued (by exact hw) (by exact hm) rfl r _ _).trans ?_)
  simp [State.advance, State.setUpc]

/-- A pushed byte joins the TX FIFO's tail (20_memory.md R65). -/
theorem periphAfterWrite_fifo_zextByte (b : Byte) (p : Periph) :
    periphAfterWrite .fifo (zextByte b) p = { p with txFifo := p.txFifo ++ [b] } := by
  simp [periphAfterWrite]

theorem push_queued (hw : s.cfg.wf = true) (hm : s.mock = none) (ht : s.turns = p :: ps) (b : Byte)
    (k : State → State) :
    push b s k = .next (k { s with
      periph := { p with txFifo := p.txFifo ++ [b] }
      turns := ps
      trace := s.trace ++ [.write .fifo (zextByte b)] }) := by
  rw [push, store_queued hw hm ht, periphAfterWrite_fifo_zextByte]

/-- `EVAL` completes with the status of the value it reads (40_microops.md R139). -/
theorem eval_queued (hw : s.cfg.wf = true) (hm : s.mock = none) (ht : s.turns = p :: ps) :
    microStep .eval s = .next { s with
      eng := { s.eng with t := p.intfl0, status := transactionStatus s.cfg p.intfl0, busy := false }
      periph := p
      turns := ps
      trace := s.trace ++ [.read .intfl0 p.intfl0] } := by
  rw [eval_eq, loadT_queued hw hm ht, ← evalStatus_eq rfl]
  rfl

end

/-! ### The statements on the micro-operations of one and of two accesses -/

/-- Settles O19: the read-modify-write whose second half sets one bit of the value read. -/
theorem setbIsReadThenWrite : Obligations.SetbIsReadThenWrite := by
  intro s b p q ps hw hm ht two
  have hsetb (r : Reg) := readModifyWrite_queued hw hm ht r (ms := .setbWrite r b) (fun v => v ||| s.cfg.mask b)
    (by rintro s1 hc; rw [← hc]; rfl)
  exact ⟨hsetb .mctrl, hsetb .txctrl, hsetb .rxctrl⟩

/-- Settles O20: the read-modify-write whose second half writes the value read as it is. -/
theorem writeBackSparesNewFlags : Obligations.WriteBackSparesNewFlags := by
  intro s p q ps hw hm ht
  have hwbk (r : Reg) := readModifyWrite_queued hw hm ht r (ms := .wbkWrite r) id (fun _ _ => rfl)
  exact ⟨⟨_, hwbk .intfl0, getLsbD_writeOneToClear _ _⟩, ⟨_, hwbk .intfl1, getLsbD_writeOneToClear _ _⟩⟩

/-- Settles O21: the four operands are bytes of the engine, each pushed alike. -/
theorem pushJoinsTheTxFifo : Obligations.PushJoinsTheTxFifo := by
  intro s p ps hw hm ht pushed
  have hpush (b : Byte) := push_queued hw hm ht b State.advance
  exact ⟨hpush _, hpush _, hpush _, hpush _⟩

/-! ### The error bits (10_state.md R43, 40_microops.md R139) -/

/-- A word shows no bit of `ERRMASK` exactly when it shows none of the seven error bits. -/
theorem and_errMask_eq_zero_iff {c : Config} {v : Word} :
    v &&& errMask c = 0#32 ↔ ∀ m ∈ c.errMasks, v &&& m = 0#32 := by
  simp [errMask, Config.errMasks, BitVec.and_or_distrib_left, BitVec.or_eq_zero_iff, and_assoc]

theorem transactionStatus_eq_ok {c : Config} {v : Word} (h : ∀ m ∈ c.errMasks, v &&& m = 0#32) :
    transactionStatus c v = c.stOk :=
  if_pos (and_errMask_eq_zero_iff.2 h)

theorem transactionStatus_eq_commErr {c : Config} {v m : Word} (hm : m ∈ c.errMasks) (h : v &&& m ≠ 0#32) :
    transactionStatus c v = c.stCommErr :=
  if_neg fun hzero => h (and_errMask_eq_zero_iff.1 hzero m hm)

/-- A clearing of a bit outside `ERRMASK` leaves each error bit. -/
theorem writeOneToClear_and_errMask {c : Config} {mask m : Word} (hmask : mask &&& errMask c = 0#32)
    (hm : m ∈ c.errMasks) (v : Word) : writeOneToClear v mask &&& m = v &&& m :=
  and_not_and (and_errMask_eq_zero_iff.1 hmask m hm) v

theorem writeOneToClear_and_self (v mask : Word) : writeOneToClear v mask &&& mask = 0#32 :=
  anySet_eq_false_iff.1 (anySet_clear v mask)

/-- A bit shown by a flag word is shown by every later one in which its flags stayed set (20_memory.md R71). -/
theorem FlagsStay.and_ne_zero {v w m : Word} (h : FlagsStay v w) (hv : v &&& m ≠ 0#32) : w &&& m ≠ 0#32 := by
  intro hw
  refine hv ?_
  calc v &&& m
    _ = (v &&& w ||| v &&& ~~~w) &&& m := by
      rw [← BitVec.and_or_distrib_left, BitVec.or_not_self, BitVec.and_allOnes]
    _ = v &&& (w &&& m) := by rw [h, BitVec.or_zero, BitVec.and_assoc]
    _ = 0#32 := by rw [hw, BitVec.and_zero]

/-! ### Rows of the step tables -/

/-- The last five steps of a transaction (42_regwr.md R161, 44_regrd.md R181). -/
theorem rowOf_stop {i : Instr} {n : Nat}
    (h : ((i.opcode = 0x01#8 ∨ i.opcode = 0x02#8) ∧ n = 15) ∨ (i.opcode = 0x03#8 ∧ n = 22)) {k : Nat}
    (hk : k < 5) : rowOf i (n + k) = stopTable[k]? := by
  obtain ⟨hop, rfl⟩ | ⟨hop, rfl⟩ := h
  · cases i with
    | regwr addr reg val | bufwr addr reg len => interval_cases k <;> rfl
    | regrd addr reg | init speed => simp [Instr.opcode] at hop
  · cases i with
    | regrd addr reg => interval_cases k <;> rfl
    | regwr addr reg val | bufwr addr reg len | init speed => simp [Instr.opcode] at hop

/-- REGRD's rows are those of its table (44_regrd.md R181). -/
theorem rowOf_regrd {i : Instr} (h : i.opcode = 0x03#8) (n : Nat) : rowOf i n = regrdTable[n]? := by
  cases i with
  | regrd addr reg => rfl
  | regwr addr reg val | bufwr addr reg len | init speed => simp [Instr.opcode] at h

/-! ### Micro-steps of a running command -/

/-- A `W1C` of `INTFL0` in a running command, its flag being outside `ERRMASK` (40_microops.md R134). -/
theorem exec_w1c_queued {s : State} {i : Instr} {n : Nat} {p : Periph} {ps : List Periph} {b : FlagBit} {mask : Word}
    (hrun : Running i n s) (hm : s.mock = none) (ht : s.turns = p :: ps) (hrow : rowOf i n = some (.w1c .intfl0 b))
    (hmask : s.cfg.mask b = mask) (herr : mask &&& errMask s.cfg = 0#32) :
    ∃ f, exec i s = .next { s with
          eng := { s.eng with upc := n + 1 }
          periph := { p with intfl0 := f }
          turns := ps
          trace := s.trace ++ [.write .intfl0 mask] } ∧
        (∀ k, f.getLsbD k = (p.intfl0.getLsbD k && !mask.getLsbD k)) ∧
        f &&& mask = 0#32 ∧ ∀ m ∈ s.cfg.errMasks, f &&& m = p.intfl0 &&& m := by
  refine ⟨writeOneToClear p.intfl0 mask, ?_, getLsbD_writeOneToClear _ _, writeOneToClear_and_self _ _,
    fun m hmem => writeOneToClear_and_errMask herr hmem _⟩
  rw [exec_row hrun hrow]
  obtain ⟨hw, -, -, rfl⟩ := hrun
  subst hmask
  exact store_queued hw hm ht .intfl0 _ State.advance

/-- Settles O22: the four rows are `W1C` of `INTFL0`, each of a flag outside `ERRMASK`. -/
theorem clearingOneFlagKeepsTheOthers : Obligations.ClearingOneFlagKeepsTheOthers := by
  intro s i n p ps hrun hm ht cleared
  have ⟨hw, _⟩ := hrun
  obtain ⟨-, -, -, hrxthrf, hstopf⟩ := wf_polledFlags hw
  refine ⟨?_, ?_, ?_, ?_⟩
  · rintro addr reg val rfl rfl
    exact exec_w1c_queued (b := .stopf) hrun hm ht rfl rfl hstopf
  · rintro addr reg len rfl rfl
    exact exec_w1c_queued (b := .stopf) hrun hm ht rfl rfl hstopf
  · rintro addr reg rfl rfl
    exact exec_w1c_queued (b := .rxthrf) hrun hm ht rfl rfl hrxthrf
  · rintro addr reg rfl rfl
    exact exec_w1c_queued (b := .stopf) hrun hm ht rfl rfl hstopf

/-- Settles O24: the row is `POP`, and the FIFO read splits on the RX FIFO. -/
theorem popWritesRdata : Obligations.PopWritesRdata := by
  intro s addr reg p ps hrun hm ht
  have ⟨hw, _, _, hn⟩ := hrun
  refine ⟨fifoReadValue p, ?_, fun b rest hcons => ?_, fifoReadValue_nil⟩
  · have hlow : lowByte (fifoReadValue p) = (fifoReadValue p).extractLsb' 0 8 :=
      BitVec.setWidth_eq_extractLsb' (by decide)
    rw [exec_row hrun (row_pop_iff.2 ⟨rfl, rfl⟩), pop_eq, loadT_queued hw hm ht, ← hlow]
    simp [State.advance, State.setUpc, State.setRdata, hn, periphReadValue, periphAfterRead]
  · rw [fifoReadValue_cons hcons, withLowByte_low]

/-- Settles O25: the row is `EVAL`, and `ERRMASK` holds the seven error bits. -/
theorem evalCompletesTheTransaction : Obligations.EvalCompletesTheTransaction := by
  intro s i n p ps hrun hm ht hlast completes
  have ⟨hw, _⟩ := hrun
  have hrow : rowOf i n = some .eval := by
    obtain ⟨hop, rfl⟩ | ⟨hop, rfl⟩ := hlast
    · exact rowOf_stop (.inl ⟨hop, rfl⟩) (k := 4) (by decide)
    · exact rowOf_stop (.inr ⟨hop, rfl⟩) (k := 4) (by decide)
  have heval := (exec_row hrun hrow).trans (eval_queued hw hm ht)
  refine ⟨?_, fun hnone => ?_⟩
  · rintro ⟨m, hmem, hset⟩
    rwa [transactionStatus_eq_commErr hmem hset] at heval
  · rwa [transactionStatus_eq_ok hnone] at heval

/-- Settles O26: the row is `CHKLEN`, whose three arms are told apart by `LEN`. -/
theorem chklenDecides : Obligations.ChklenDecides := by
  intro s addr reg len hrun
  have ⟨hw, _, hl, _⟩ := hrun
  have hdepth := three_le_fifoDepth_of_wf hw
  obtain ⟨-, -, hlen⟩ := latched_bufwr hl
  have hlong : lengthTooLong s = decide (len.toInt > (s.cfg.fifoDepth : Int) - 2) := by rw [lengthTooLong, hlen]
  have hneg : lengthNegative s = decide (len.toInt < 0) := by rw [lengthNegative, hlen]
  rw [exec_row hrun (row_chklen_iff.2 ⟨rfl, rfl⟩)]
  simp only [microStep, chklen, hlong, hneg, decide_eq_true_eq]
  refine ⟨fun h => ?_, fun h => ?_, fun h h' => ?_⟩
  · rw [if_pos h]
    rfl
  · rw [if_neg (by omega), if_pos h]
  · rw [if_neg (by omega), if_neg (by omega)]
    rfl

/-! ### The busy-waits (40_microops.md R135, R136) -/

/-- The rows at the waits of the three transaction tables (42_regwr.md R161, 43_bufwr.md R172, 44_regrd.md R181). -/
theorem rowOf_waits (i : Instr) :
    (i.opcode ≠ 0x04#8 → rowOf i 6 = some (.poll0 .txctrl .txflush)) ∧
      (i.opcode ≠ 0x04#8 → rowOf i 9 = some (.poll0 .rxctrl .rxflush)) ∧
      (i.opcode = 0x01#8 ∨ i.opcode = 0x02#8 → rowOf i 17 = some (.poll1 .intfl0 .stopf)) ∧
      (i.opcode = 0x03#8 → rowOf i 17 = some (.poll0 .mctrl .restart)) ∧
      (i.opcode = 0x03#8 → rowOf i 19 = some (.poll1 .intfl0 .rxthrf)) ∧
      (i.opcode = 0x03#8 → rowOf i 24 = some (.poll1 .intfl0 .stopf)) :=
  ⟨fun hop => rowOf_flush hop (by decide), fun hop => rowOf_flush hop (by decide),
    fun hop => rowOf_stop (.inl ⟨hop, rfl⟩) (k := 2) (by decide), fun hop => rowOf_regrd hop _,
    fun hop => rowOf_regrd hop _, fun hop => rowOf_regrd hop _⟩

theorem periphAfterRead_of_ne_fifo {r : Reg} (h : r ≠ .fifo) (p : Periph) : periphAfterRead r p = p := by
  cases r with
  | fifo => exact absurd rfl h
  | _ => rfl

section
variable {s t : State} {i : Instr} {n : Nat} {ms : MicroStep} {r : Reg} {ready : Word → Bool}

/-- A read that does not show what is awaited: the wait is taken again. -/
theorem wait_queued {p : Periph} {ps : List Periph} (hw : s.cfg.wf = true) (hm : s.mock = none)
    (ht : s.turns = p :: ps) (hwait : IsWait ms s.cfg r ready) (hr : r ≠ .fifo)
    (hnot : ready (periphReadValue r p) = false) :
    microStep ms s = .next { s with
      eng := { s.eng with t := periphReadValue r p }
      periph := p
      turns := ps
      trace := s.trace ++ [.read r (periphReadValue r p)] } := by
  rw [hwait s rfl, loadT_queued hw hm ht, periphAfterRead_of_ne_fifo hr]
  simp [hnot]

/-- A wait is taken once for each read that does not show what is awaited, by induction on these reads. -/
theorem stepN_wait_queued (hrow : rowOf i n = some ms) (hr : r ≠ .fifo) (ws : List Periph) {w : Periph}
    {rest : List Periph} (hrun : Running i n s) (hwait : IsWait ms s.cfg r ready) (hm : s.mock = none)
    (hin : s.input = none) (ht : s.turns = ws ++ [w] ++ rest)
    (hnot : ∀ p ∈ ws ++ [w], ready (periphReadValue r p) = false) :
    stepN (ws.length + 1) s = .next { s with
      eng := { s.eng with t := periphReadValue r w }
      periph := w
      turns := rest
      trace := s.trace ++ (ws ++ [w]).map fun p => .read r (periphReadValue r p) } := by
  induction ws generalizing s with
  | nil =>
    have ⟨hw, _⟩ := hrun
    rw [stepN_row _ hrun hin hrow, wait_queued hw hm ht hwait hr (hnot w (by simp))]
    rfl
  | cons p ws ih =>
    have ⟨hw, _⟩ := hrun
    rw [stepN_row _ hrun hin hrow, wait_queued hw hm ht hwait hr (hnot p (by simp)), andThen_next,
      List.length_cons, ih]
    · simp
    · exact hrun
    · exact hwait
    · exact hm
    · exact hin
    · rfl
    · exact fun p' hp' => hnot p' (List.mem_cons_of_mem p hp')

/-- All a step at a wait can do: it reads once and goes on exactly when the value read shows what is awaited. -/
theorem wait_next (hw : s.cfg.wf = true) (hwait : IsWait ms s.cfg r ready) (h : microStep ms s = .next t) :
    t.eng.busy = s.eng.busy ∧ ∃ v, t.trace = s.trace ++ [.read r v] ∧
      (ready v = true → t.eng.upc = s.eng.upc + 1) ∧ (ready v = false → t.eng.upc = s.eng.upc) := by
  rw [hwait s rfl] at h
  obtain ⟨v, s1, hsame, htrace, rfl⟩ := loadT_next hw h
  refine ⟨?_, v, ?_, fun hv => ?_, fun hv => ?_⟩
  · split <;> simp [hsame.eng]
  · split <;> simp [htrace]
  · simp [hv, hsame.eng]
  · simp [hv, hsame.eng]

end

/-- Settles O23: the rows at these steps are waits, and a wait is taken once for each read that does not end it. -/
theorem busyWaitHasNoBound : Obligations.BusyWaitHasNoBound := by
  intro s i n ws w rest hrun hm hin ht hangs
  have hset {r : Reg} {b : FlagBit} (hr : r ≠ .fifo) (hrow : rowOf i n = some (.poll1 r b)) :
      hangs r fun p => periphReadValue r p &&& s.cfg.mask b = 0#32 := fun hwaiting =>
    stepN_wait_queued hrow hr ws hrun (poll1_isWait _ _ _) hm hin ht fun p hp =>
      anySet_eq_false_iff.2 (hwaiting p hp)
  have hclear {r : Reg} {b : FlagBit} (hr : r ≠ .fifo) (hrow : rowOf i n = some (.poll0 r b)) :
      hangs r fun p => periphReadValue r p &&& s.cfg.mask b ≠ 0#32 := fun hwaiting =>
    stepN_wait_queued hrow hr ws hrun (poll0_isWait _ _ _) hm hin ht fun p hp =>
      congrArg not (anySet_eq_true_iff.2 (hwaiting p hp))
  obtain ⟨htx, hrx, hstop, hrestart, hbyte, hstopRead⟩ := rowOf_waits i
  refine ⟨?_, ?_, ?_, ?_, ?_, ?_⟩ <;> rintro hop rfl
  · exact hclear (by decide) (htx hop)
  · exact hclear (by decide) (hrx hop)
  · exact hset (by decide) (hstop hop)
  · exact hclear (by decide) (hrestart hop)
  · exact hset (by decide) (hbyte hop)
  · exact hset (by decide) (hstopRead hop)

/-! ### The steps of INIT (40_microops.md R141, R145) -/

theorem callFails_setFrequency_iff {c : Config} {v : Word} : callFails c .setFrequency v = true ↔ v.toInt < 0 := by
  simp [callFails]

theorem callFails_iff {c : Config} {k : Collaborator} {v : Word} (hk : k ≠ .setFrequency) :
    callFails c k v = true ↔ v ≠ c.stOk :=
  ⟨fun h hv => by simp [callFails_eq_false hk hv] at h, callFails_eq_true hk⟩

section
variable {s t : State} {k : Collaborator}

/-- A call of INIT, the environment's reply being queued: a failure ends the command, any other value goes on. -/
theorem exec_call_queued {speed : Word} {n : Nat} {a : CallReply} {as : List CallReply}
    (hrun : Running (.init speed) n s) (hm : s.mock = none) (hc : s.calls = a :: as)
    (hrow : initRow n = some (.call k)) :
    (callFails s.cfg k a.ret = true → exec (.init speed) s = .next { s with
        eng := { s.eng with status := a.ret, busy := false }
        env := envLeft k a.field s.env
        calls := as
        trace := s.trace ++ [.call (callRecord k s) (some a.ret)] }) ∧
      (¬ callFails s.cfg k a.ret = true → exec (.init speed) s = .next { s with
        eng := { s.eng with upc := n + 1 }
        env := envOnSuccess s.cfg k a.field s.env
        calls := as
        trace := s.trace ++ [.call (callRecord k s) (some a.ret)] }) := by
  have hreply : callReply k s = (a, { s with calls := as }) := by simp [callReply, freeReply, hm, hc]
  rw [exec_row hrun hrow, microStep, callStep, hreply]
  obtain ⟨-, -, -, rfl⟩ := hrun
  refine ⟨fun hfail => ?_, fun hok => ?_⟩
  · rw [if_pos hfail, hm]
    rfl
  · rw [if_neg hok]
    rfl

/-- A call that completes INIT has failed, with the value that becomes the status. -/
theorem call_completes (h : microStep (.call k) s = .next t) (hs : s.eng.busy = true) (ht : t.eng.busy = false) :
    callFails s.cfg k t.eng.status = true ∧
      t.trace = s.trace ++ [.call (callRecord k s) (some t.eng.status)] := by
  have hsame := callReply_same k s
  simp only [microStep, callStep] at h
  rw [hsame] at h
  split at h
  · cases h
    exact ⟨‹_›, rfl⟩
  · cases h
    exact absurd (hs.symm.trans ht) (by decide)

end

/-- Settles O28: the four rows are calls, and each collaborator's value says whether it failed. -/
theorem callSucceedsOrEndsInit : Obligations.CallSucceedsOrEndsInit := by
  intro s speed n a as hrun hm hc outcome
  have ⟨_, _, hl, _⟩ := hrun
  have hspeed := latched_init hl
  have hcall {k : Collaborator} {fails : Prop} (hrow : initRow n = some (.call k))
      (hfails : callFails s.cfg k a.ret = true ↔ fails) :
      outcome (callRecord k s) fails (envOnSuccess s.cfg k a.field s.env) (envLeft k a.field s.env) :=
    propext hfails ▸ exec_call_queued hrun hm hc hrow
  refine ⟨?_, ?_, ?_, ?_⟩
  · rintro rfl
    exact hcall (k := .peripheralInit) rfl (callFails_iff (by decide))
  · rintro rfl
    rw [← hspeed]
    exact hcall (k := .setFrequency) rfl callFails_setFrequency_iff
  · rintro rfl
    exact hcall (k := .setTxThreshold) rfl (callFails_iff (by decide))
  · rintro rfl
    exact hcall (k := .setRxThreshold) rfl (callFails_iff (by decide))

/-- Settles O29: the two rows read neither PERIPHERAL nor the collaborators. -/
theorem gpioBitsThenInitCompletes : Obligations.GpioBitsThenInitCompletes := by
  intro s speed
  refine ⟨fun hrun => ?_, fun hrun => exec_row hrun rfl⟩
  have ⟨_, _, _, hn⟩ := hrun
  rw [exec_row (m := .gpiods) hrun rfl]
  simp [microStep, gpioStep, State.advance, State.setUpc, State.setEnv, State.log, orMask, hn]

/-! ### Completion (40_microops.md R143, 60_exceptions.md R204) -/

/-- Only four kinds of micro-step clear `BUSY`, and three of them by a status of the parameters. -/
theorem engineAfter_completes {m : MicroStep} {c : Config} {v : Word} {e : Engine} (hb : e.busy = true)
    (h : (engineAfter m c v e).busy = false) :
    (m = .eval ∧ ((engineAfter m c v e).status = c.stOk ∨ (engineAfter m c v e).status = c.stCommErr)) ∨
      (m = .chklen ∧ (engineAfter m c v e).status = c.stBadParam) ∨ (∃ k, m = .call k) ∨
      (m = .finish ∧ (engineAfter m c v e).status = c.stOk) := by
  cases m with
  | eval =>
    refine .inl ⟨rfl, ?_⟩
    simp only [engineAfter]
    split <;> simp
  | chklen =>
    refine .inr (.inl ⟨rfl, ?_⟩)
    simp only [engineAfter] at h ⊢
    split at h
    · rw [if_pos ‹_›]
    · exact absurd (hb.symm.trans h) (by decide)
  | call k => exact .inr (.inr (.inl ⟨k, rfl⟩))
  | finish => exact .inr (.inr (.inr ⟨rfl, rfl⟩))
  | payload =>
    simp only [engineAfter] at h
    split at h <;> exact absurd (hb.symm.trans h) (by decide)
  | _ => exact absurd (hb.symm.trans h) (by decide)

/-- `EVAL` ends each of the three transaction tables (42_regwr.md R161, 43_bufwr.md R172, 44_regrd.md R181). -/
theorem row_eval {i : Instr} {n : Nat} (h : rowOf i n = some .eval) :
    (i.opcode = 0x01#8 ∧ n = 19) ∨ (i.opcode = 0x02#8 ∧ n = 19) ∨ (i.opcode = 0x03#8 ∧ n = 26) := by
  have hn : n = lastStep i := by simpa [fitsTable] using rowOf_fits h
  cases i with
  | regwr addr reg val => exact .inl ⟨rfl, hn⟩
  | bufwr addr reg len => exact .inr (.inl ⟨rfl, hn⟩)
  | regrd addr reg => exact .inr (.inr ⟨rfl, hn⟩)
  | init speed =>
    subst hn
    cases h

/-- The calls are INIT's steps 0 to 3 (45_init.md R192). -/
theorem row_call {i : Instr} {n : Nat} {k : Collaborator} (h : rowOf i n = some (.call k)) :
    i.opcode = 0x04#8 ∧ n ≤ 3 := by
  obtain ⟨hop, hn⟩ : i.opcode = 0x04#8 ∧ n ≤ 4 := by simpa [fitsTable] using rowOf_fits h
  refine ⟨hop, ?_⟩
  have hne : n ≠ 4 := by
    rintro rfl
    cases i with
    | init speed => cases h
    | regwr addr reg val | bufwr addr reg len | regrd addr reg => simp [Instr.opcode] at hop
  omega

/-- The end of INIT is its step 5 (45_init.md R192). -/
theorem row_finish {i : Instr} {n : Nat} (h : rowOf i n = some .finish) : i.opcode = 0x04#8 ∧ n = 5 := by
  simpa [fitsTable] using rowOf_fits h

/-- Settles O43: the four kinds of completing micro-step stand at these steps of the tables, and the waits at those. -/
theorem completionHappensOnlyAtTheseSteps : Obligations.CompletionHappensOnlyAtTheseSteps := by
  intro s t h hb
  obtain ⟨hw, i, m, hl, hrow, hm⟩ := step_busy h hb
  rw [latched_opcode hl]
  refine ⟨fun hidle => ?_, ?_⟩
  · obtain ⟨v, heng, -⟩ := microStep_engine hw hm
    have hdone := engineAfter_completes (v := v) hb (heng ▸ hidle)
    rw [← heng] at hdone
    obtain ⟨rfl, hst⟩ | ⟨rfl, hst⟩ | ⟨k, rfl⟩ | ⟨rfl, hst⟩ := hdone
    · obtain ⟨hop, hn⟩ | ⟨hop, hn⟩ | ⟨hop, hn⟩ := row_eval hrow
      · exact .inl ⟨hop, hn, hst⟩
      · exact .inr (.inl ⟨hop, hn, hst⟩)
      · exact .inr (.inr (.inr (.inl ⟨hop, hn, hst⟩)))
    · obtain ⟨hop, hn⟩ := row_chklen_iff.1 hrow
      exact .inr (.inr (.inl ⟨hop, hn, hst⟩))
    · obtain ⟨hop, hn⟩ := row_call hrow
      exact .inr (.inr (.inr (.inr (.inl ⟨hop, hn, k, call_completes hm hb hidle⟩))))
    · obtain ⟨hop, hn⟩ := row_finish hrow
      exact .inr (.inr (.inr (.inr (.inr ⟨hop, hn, hst⟩))))
  · intro waits
    have hset {r : Reg} {b : FlagBit} (hpoll : rowOf i s.eng.upc = some (.poll1 r b)) :
        waits r fun v => v &&& s.cfg.mask b ≠ 0#32 := by
      obtain rfl := Option.some.inj (hrow.symm.trans hpoll)
      obtain ⟨hbusy, v, htrace, hgo, hstay⟩ := wait_next hw (poll1_isWait _ _ _) hm
      exact ⟨hbusy.trans hb, v, htrace, fun hv => hgo (anySet_eq_true_iff.2 hv),
        fun hv => hstay (anySet_eq_false_iff.2 (not_not.1 hv))⟩
    have hclear {r : Reg} {b : FlagBit} (hpoll : rowOf i s.eng.upc = some (.poll0 r b)) :
        waits r fun v => v &&& s.cfg.mask b = 0#32 := by
      obtain rfl := Option.some.inj (hrow.symm.trans hpoll)
      obtain ⟨hbusy, v, htrace, hgo, hstay⟩ := wait_next hw (poll0_isWait _ _ _) hm
      exact ⟨hbusy.trans hb, v, htrace, fun hv => hgo (congrArg not (anySet_eq_false_iff.2 hv)),
        fun hv => hstay (congrArg not (anySet_eq_true_iff.2 hv))⟩
    obtain ⟨htx, hrx, hstop, hrestart, hbyte, hstopRead⟩ := rowOf_waits i
    refine ⟨?_, ?_, ?_, ?_, ?_, ?_⟩ <;> intro hop hn
    · exact hclear (b := .txflush) (hn ▸ htx hop)
    · exact hclear (b := .rxflush) (hn ▸ hrx hop)
    · exact hset (b := .stopf) (hn ▸ hstop hop)
    · exact hclear (b := .restart) (hn ▸ hrestart hop)
    · exact hset (b := .rxthrf) (hn ▸ hbyte hop)
    · exact hset (b := .stopf) (hn ▸ hstopRead hop)

/-! ### The trace (40_microops.md R130, 20_memory.md R73) -/

@[simp] theorem hostTurn_trace (s : State) : (hostTurn s).trace = s.trace := by
  unfold hostTurn
  split <;> rfl

/-- A step of an idle engine adds nothing to the trace. -/
theorem step_idle_trace {s t : State} (h : step s = .next t) (hb : s.eng.busy = false) : t.trace = s.trace := by
  obtain ⟨-, -, -, i, rfl⟩ | ⟨-, i, b, -, -, rfl⟩ | ⟨-, buf, -, rfl⟩ | ⟨-, -, rfl⟩ | ⟨-, -, rfl⟩ | ⟨hbusy, -⟩ :=
    step_next h
  · rfl
  · rfl
  · rfl
  · rfl
  · exact hostTurn_trace s
  · exact absurd (hbusy.symm.trans hb) (by decide)

/-- Settles O46: an idle engine adds nothing, a busy one takes one micro-step, which adds at most one entry. -/
theorem oneAccessPerStep : Obligations.OneAccessPerStep := by
  intro s t h
  refine ⟨?_, step_idle_trace h⟩
  cases hb : s.eng.busy with
  | false => exact .inl (step_idle_trace h hb)
  | true =>
    obtain ⟨hw, i, m, -, -, hm⟩ := step_busy h hb
    exact (microStep_frame hw hm).trace

/-! ### An error flag that stays set is reported (20_memory.md R71, 95_test_vectors.md V60) -/

/-- Command `i` runs at step `n` under the parameters `c`, nothing arriving, and PERIPHERAL's next moves are `ps`. -/
structure AtStep (i : Instr) (n : Nat) (c : Config) (ps : List Periph) (s : State) : Prop where
  running : Running i n s
  cfg : s.cfg = c
  input : s.input = none
  mock : s.mock = none
  turns : s.turns = ps

section
variable {i : Instr} {n : Nat} {c : Config} {p : Periph} {ps : List Periph} {s : State} {ms : MicroStep} {r : Reg}

theorem AtStep.step_eq (h : AtStep i n c ps s) (hrow : rowOf i n = some ms) : step s = microStep ms s :=
  (step_running h.running h.input).trans (exec_row h.running hrow)

/-- A wait whose read shows what is awaited is left. -/
theorem AtStep.wait {ready : Word → Bool} (h : AtStep i n c (p :: ps) s) (hrow : rowOf i n = some ms)
    (hwait : IsWait ms c r ready) (hready : ready (periphReadValue r p) = true) :
    ∃ s1, step s = .next s1 ∧ AtStep i (n + 1) c ps s1 := by
  obtain ⟨hw, hb, hl, hn⟩ := h.running
  have hload := (hwait s h.cfg).trans (loadT_queued hw h.mock h.turns r _)
  simp only [hready, reduceIte] at hload
  exact ⟨_, (h.step_eq hrow).trans hload, ⟨hw, hb, hl, congrArg (· + 1) hn⟩, h.cfg, h.input, h.mock, rfl⟩

/-- A writing row goes on, whatever PERIPHERAL does with the value. -/
theorem AtStep.put {v : Word} (h : AtStep i n c (p :: ps) s) (hrow : rowOf i n = some ms) (hput : IsPut ms i c r v) :
    ∃ s1, step s = .next s1 ∧ AtStep i (n + 1) c ps s1 := by
  obtain ⟨hw, hb, hl, hn⟩ := h.running
  have hstore := (hput s h.cfg hl).trans (store_queued hw h.mock h.turns r v _)
  exact ⟨_, (h.step_eq hrow).trans hstore, ⟨hw, hb, hl, congrArg (· + 1) hn⟩, h.cfg, h.input, h.mock, rfl⟩

/-- The evaluation completes the command. -/
theorem AtStep.eval (h : AtStep i n c (p :: ps) s) (hrow : rowOf i n = some .eval) :
    ∃ t, step s = .next t ∧ t.eng.busy = false ∧ t.eng.status = transactionStatus c p.intfl0 := by
  have ⟨hw, _⟩ := h.running
  exact ⟨_, (h.step_eq hrow).trans (eval_queued hw h.mock h.turns), rfl, by rw [h.cfg]⟩

end

/-- Settles O51: the error bit is outside `STOPF`, so the clearing leaves it for the evaluation, two steps later. -/
theorem raisedErrorIsReported : Obligations.RaisedErrorIsReported := by
  intro s i n p q w rest m hrun hat hm hin ht hstop hmem hset hstay hstay'
  have ⟨hw, _⟩ := hrun
  obtain ⟨-, -, -, -, hstopf⟩ := wf_polledFlags hw
  have hcleared : q.intfl0 &&& ~~~s.cfg.mStopf &&& m ≠ 0#32 := by
    rw [and_not_and (and_errMask_eq_zero_iff.1 hstopf m hmem)]
    exact hstay.and_ne_zero hset
  have hrow : ∀ k < 3, rowOf i (n + k) = stopTable[2 + k]? := by
    intro k hk
    obtain ⟨hop, rfl⟩ | ⟨hop, rfl⟩ := hat
    · rw [← rowOf_stop (.inl ⟨hop, rfl⟩) (by omega), ← Nat.add_assoc]
    · rw [← rowOf_stop (.inr ⟨hop, rfl⟩) (by omega), ← Nat.add_assoc]
  have start : AtStep i n s.cfg (p :: q :: w :: rest) s := ⟨hrun, rfl, hin, hm, ht⟩
  obtain ⟨s1, hpoll, h1⟩ := start.wait (hrow 0 (by decide)) (poll1_isWait _ .intfl0 .stopf) hstop
  obtain ⟨s2, hw1c, h2⟩ := h1.put (hrow 1 (by decide)) (w1c_isPut _ _ .intfl0 .stopf)
  obtain ⟨t, heval, hidle, hstatus⟩ := h2.eval (hrow 2 (by decide))
  refine ⟨t, by simp [stepN, hpoll, hw1c, heval], hidle, ?_⟩
  rw [hstatus, transactionStatus_eq_commErr hmem (hstay'.and_ne_zero hcleared)]

end Sys2Proof.Machine

/-! Proofs of the statements of 41_flush.md: a flush that the mock never ends. -/

namespace Sys2Proof.Machine

/-! ### A wait that the mock never ends (41_flush.md R154) -/

/-- A countdown that is off leaves TXCTRL and the mock as they are (20_memory.md R82, R83). -/
theorem mockRead_txctrl_off {m : Mock} (h : m.cTxf = none) (c : Config) (p : Periph) :
    mockRead c .txctrl p m = some (p.txctrl, p, m) := by
  cases m
  cases h
  rfl

/-- Likewise for RXCTRL. -/
theorem mockRead_rxctrl_off {m : Mock} (h : m.cRxf = none) (c : Config) (p : Periph) :
    mockRead c .rxctrl p m = some (p.rxctrl, p, m) := by
  cases m
  cases h
  rfl

section
variable {s : State} {m : Mock} {i : Instr} {n : Nat} {ms : MicroStep} {r : Reg} {v : Word} {ready : Word → Bool}

/-- A read that neither moves the mock nor shows what is awaited: the wait is taken again. -/
theorem wait_mock_stays (hw : s.cfg.wf = true) (hm : s.mock = some m) (hwait : IsWait ms s.cfg r ready)
    (hread : mockRead s.cfg r s.periph m = some (v, s.periph, m)) (hnot : ready v = false) :
    microStep ms s = .next { s with eng := { s.eng with t := v }, trace := s.trace ++ [.read r v] } := by
  rw [hwait s rfl, loadT_mock hw hm hread, ← hm]
  simp [hnot, State.log, State.setT]

/-- Such a wait is taken any number of times, by induction on this number. -/
theorem stepN_wait_mock_stays (hrow : rowOf i n = some ms) (hrun : Running i n s) (hin : s.input = none)
    (hm : s.mock = some m) (hwait : IsWait ms s.cfg r ready)
    (hread : mockRead s.cfg r s.periph m = some (v, s.periph, m)) (hnot : ready v = false) (k : Nat) :
    stepN (k + 1) s = .next { s with
      eng := { s.eng with t := v }
      trace := s.trace ++ List.replicate (k + 1) (.read r v) } := by
  induction k generalizing s with
  | zero =>
    have ⟨hw, _⟩ := hrun
    rw [stepN_row 0 hrun hin hrow, wait_mock_stays hw hm hwait hread hnot]
    rfl
  | succ k ih =>
    have ⟨hw, _⟩ := hrun
    rw [stepN_row (k + 1) hrun hin hrow, wait_mock_stays hw hm hwait hread hnot, andThen_next, ih]
    · simp [List.replicate_succ]
    · exact hrun
    · exact hin
    · exact hm
    · exact hwait
    · exact hread

end

/-- Settles O54: with the countdown off no read shows the flush bit clear, and none moves the mock. -/
theorem mockFlushThatNeverEndsHangs : Obligations.MockFlushThatNeverEndsHangs := by
  intro s i m n hop hin hm
  obtain ⟨htx, hrx, -⟩ := rowOf_waits i
  refine ⟨fun hrun hoff hset => ?_, fun hrun hoff hset => ?_⟩
  · exact stepN_wait_mock_stays (htx hop) hrun hin hm (poll0_isWait _ _ _) (mockRead_txctrl_off hoff _ _)
      (congrArg not (anySet_eq_true_iff.2 hset)) n
  · exact stepN_wait_mock_stays (hrx hop) hrun hin hm (poll0_isWait _ _ _) (mockRead_rxctrl_off hoff _ _)
      (congrArg not (anySet_eq_true_iff.2 hset)) n

end Sys2Proof.Machine

/-! Proofs of the statements of 42_regwr.md: the rows that the transaction tables share, and REGWR from issue to
completion. -/

namespace Sys2Proof.Machine

/-! ### Each row of the shared tables as its action -/

section
variable {s : State}

/-- A wait for a bit to clear stays while the bit is set (40_microops.md R136). -/
theorem poll0_eq (r : Reg) (b : FlagBit) :
    microStep (.poll0 r b) s = loadT r s fun s' => if s'.eng.t &&& s.cfg.mask b = 0#32 then s'.advance else s' := by
  rw [poll0_isWait s.cfg r b s rfl]
  simp [anySet]

/-- A wait for a bit to be set stays while the bit is clear (40_microops.md R135). -/
theorem poll1_eq (r : Reg) (b : FlagBit) :
    microStep (.poll1 r b) s = loadT r s fun s' => if s'.eng.t &&& s.cfg.mask b = 0#32 then s' else s'.advance := by
  simp [poll1_isWait s.cfg r b s rfl, anySet]

/-- The status of an evaluation, by the error bits of the value read (40_microops.md R139). -/
theorem eval_eq_transactionStatus :
    microStep .eval s = loadT .intfl0 s fun s' => s'.complete (transactionStatus s.cfg s'.eng.t) := by
  simp only [eval_eq, evalStatus_eq rfl]

variable {i : Instr} {n : Nat}

/-- The ten rows of FLUSH (41_flush.md R151). -/
theorem exec_flush (hop : i.opcode ≠ 0x04#8) (hrun : Running i n s) :
    (n = 0 → exec i s = loadT .intfl0 s State.advance) ∧
      (n = 1 → exec i s = store .intfl0 s.eng.t s State.advance) ∧
      (n = 2 → exec i s = loadT .intfl1 s State.advance) ∧
      (n = 3 → exec i s = store .intfl1 s.eng.t s State.advance) ∧
      (n = 4 → exec i s = loadT .txctrl s State.advance) ∧
      (n = 5 → exec i s = store .txctrl (s.eng.t ||| s.cfg.mTxflush) s State.advance) ∧
      (n = 6 → exec i s = loadT .txctrl s fun s' =>
        if s'.eng.t &&& s.cfg.mTxflush = 0#32 then s'.advance else s') ∧
      (n = 7 → exec i s = loadT .rxctrl s State.advance) ∧
      (n = 8 → exec i s = store .rxctrl (s.eng.t ||| s.cfg.mRxflush) s State.advance) ∧
      (n = 9 → exec i s = loadT .rxctrl s fun s' =>
        if s'.eng.t &&& s.cfg.mRxflush = 0#32 then s'.advance else s') := by
  have row {m : MicroStep} (k : Nat) (hk : k < 10) (hm : flushTable[k]? = some m) (hn : n = k) :
      exec i s = microStep m s := exec_row hrun (hn ▸ (rowOf_flush hop hk).trans hm)
  refine ⟨?_, ?_, ?_, ?_, ?_, ?_, fun hn => ?_, ?_, ?_, fun hn => ?_⟩
  · exact row (m := .wbkRead .intfl0) 0 (by decide) rfl
  · exact row (m := .wbkWrite .intfl0) 1 (by decide) rfl
  · exact row (m := .wbkRead .intfl1) 2 (by decide) rfl
  · exact row (m := .wbkWrite .intfl1) 3 (by decide) rfl
  · exact row (m := .setbRead .txctrl) 4 (by decide) rfl
  · exact row (m := .setbWrite .txctrl .txflush) 5 (by decide) rfl
  · exact (row 6 (by decide) rfl hn).trans (poll0_eq .txctrl .txflush)
  · exact row (m := .setbRead .rxctrl) 7 (by decide) rfl
  · exact row (m := .setbWrite .rxctrl .rxflush) 8 (by decide) rfl
  · exact (row 9 (by decide) rfl hn).trans (poll0_eq .rxctrl .rxflush)

/-- The four rows after FLUSH: the address byte, START, the register address (42_regwr.md R161). -/
theorem exec_address {addr reg : Byte} (hop : i.opcode ≠ 0x04#8) (hrun : Running i n s) (haddr : s.eng.addr = addr)
    (hreg : s.eng.reg = reg) :
    (n = 10 → exec i s = store .fifo (addr.setWidth 32) s State.advance) ∧
      (n = 11 → exec i s = loadT .mctrl s State.advance) ∧
      (n = 12 → exec i s = store .mctrl (s.eng.t ||| s.cfg.mStart) s State.advance) ∧
      (n = 13 → exec i s = store .fifo (reg.setWidth 32) s State.advance) := by
  subst haddr hreg
  have row {m : MicroStep} (k : Nat) (hk : k < 4) (hm : addressTable[k]? = some m) (hn : n = 10 + k) :
      exec i s = microStep m s := exec_row hrun (hn ▸ (rowOf_address hop hk).trans hm)
  refine ⟨?_, ?_, ?_, ?_⟩
  · exact row (m := .push .addr) 0 (by decide) rfl
  · exact row (m := .setbRead .mctrl) 1 (by decide) rfl
  · exact row (m := .setbWrite .mctrl .start) 2 (by decide) rfl
  · exact row (m := .push .reg) 3 (by decide) rfl

/-- The five rows at the end, from row `m` on: STOP, the wait for STOPF, its clearing, the evaluation (42_regwr.md R161,
44_regrd.md R181). -/
theorem exec_stop {m : Nat}
    (hat : ((i.opcode = 0x01#8 ∨ i.opcode = 0x02#8) ∧ m = 15) ∨ (i.opcode = 0x03#8 ∧ m = 22))
    (hrun : Running i n s) :
    (n = m → exec i s = loadT .mctrl s State.advance) ∧
      (n = m + 1 → exec i s = store .mctrl (s.eng.t ||| s.cfg.mStop) s State.advance) ∧
      (n = m + 2 → exec i s = loadT .intfl0 s fun s' =>
        if s'.eng.t &&& s.cfg.mStopf = 0#32 then s' else s'.advance) ∧
      (n = m + 3 → exec i s = store .intfl0 s.cfg.mStopf s State.advance) ∧
      (n = m + 4 → exec i s = loadT .intfl0 s fun s' =>
        s'.complete (if s'.eng.t &&& errMask s.cfg = 0#32 then s.cfg.stOk else s.cfg.stCommErr)) := by
  have row {ms : MicroStep} (k : Nat) (hk : k < 5) (hm : stopTable[k]? = some ms) (hn : n = m + k) :
      exec i s = microStep ms s := exec_row hrun (hn ▸ (rowOf_stop hat hk).trans hm)
  refine ⟨?_, ?_, fun hn => ?_, ?_, fun hn => ?_⟩
  · exact row (ms := .setbRead .mctrl) 0 (by decide) rfl
  · exact row (ms := .setbWrite .mctrl .stop) 1 (by decide) rfl
  · exact (row 2 (by decide) rfl hn).trans (poll1_eq .intfl0 .stopf)
  · exact row (ms := .w1c .intfl0 .stopf) 3 (by decide) rfl
  · exact (row 4 (by decide) rfl hn).trans eval_eq_transactionStatus

end

/-- Settles O13: FLUSH, the address bytes, the value byte, and the end of the transaction. -/
theorem regwrStepTable : Obligations.RegwrStepTable := by
  intro addr reg val s
  refine ⟨fun hidle => ⟨_, exec_idle hidle, hidle.1, rfl, latched_issue s _, rfl⟩, fun n hrun => ?_⟩
  have ⟨_, _, hl, _⟩ := hrun
  obtain ⟨haddr, hreg, hval⟩ := latched_regwr hl
  obtain ⟨h0, h1, h2, h3, h4, h5, h6, h7, h8, h9⟩ := exec_flush (by simp [Instr.opcode]) hrun
  obtain ⟨h10, h11, h12, h13⟩ := exec_address (by simp [Instr.opcode]) hrun haddr hreg
  obtain ⟨h15, h16, h17, h18, h19⟩ := exec_stop (.inl ⟨.inl rfl, rfl⟩) hrun
  have h14 : n = 14 → exec (.regwr addr reg val) s = store .fifo (val.setWidth 32) s State.advance := by
    rintro rfl
    rw [exec_row hrun (m := .push .val) rfl, ← hval]
    rfl
  exact ⟨h0, h1, h2, h3, h4, h5, h6, h7, h8, h9, h10, h11, h12, h13, h14, h15, h16, h17, h18, h19⟩

/-! ### Rows that make one access each, PERIPHERAL's moves being queued -/

/-- The state after accesses that brought `x[T]` to `v`, UPC to `n` and PERIPHERAL to `p`, left the moves `ps` and added
`es` to the trace. -/
def State.accessed (s : State) (v : Word) (n : Nat) (p : Periph) (ps : List Periph) (es : List TraceEntry) : State :=
  { s with eng := { s.eng with t := v, upc := n }, periph := p, turns := ps, trace := s.trace ++ es }

theorem accessed_accessed (s : State) (v v' : Word) (n n' : Nat) (p p' : Periph) (ps ps' : List Periph)
    (es es' : List TraceEntry) :
    (s.accessed v n p ps es).accessed v' n' p' ps' es' = s.accessed v' n' p' ps' (es ++ es') := by
  simp [State.accessed]

/-- The rows of command `i` from `n` up to `n'` make one access in each step: with the moves `qs` queued for them they
add `es` to the trace and, `x[T]` and UPC apart, change nothing outside PERIPHERAL. -/
def Passes (i : Instr) (c : Config) (n n' : Nat) (qs : List Periph) (es : List TraceEntry) : Prop :=
  ∀ (ps : List Periph) (s : State), AtStep i n c (qs ++ ps) s →
    ∃ v p, stepN qs.length s = .next (s.accessed v n' p ps es)

section
variable {i : Instr} {c : Config} {n n' n'' : Nat} {p q : Periph} {ps qs qs' : List Periph} {es es' : List TraceEntry}
  {s : State} {r : Reg} {ms ms' : MicroStep}

theorem AtStep.accessed (h : AtStep i n c qs s) (v : Word) (n' : Nat) (p : Periph) (ps : List Periph)
    (es : List TraceEntry) : AtStep i n' c ps (s.accessed v n' p ps es) := by
  obtain ⟨hw, hb, hl, -⟩ := h.running
  exact ⟨⟨hw, hb, hl, rfl⟩, h.cfg, h.input, h.mock, rfl⟩

/-- A row that reads and goes on. -/
theorem AtStep.read (h : AtStep i n c (p :: ps) s) (hrow : rowOf i n = some ms) (hms : microStep ms s = readHalf r s) :
    step s =
      .next (s.accessed (periphReadValue r p) (n + 1) (periphAfterRead r p) ps [.read r (periphReadValue r p)]) := by
  obtain ⟨hw, -, -, rfl⟩ := h.running
  exact (h.step_eq hrow).trans (hms.trans (loadT_queued hw h.mock h.turns r _))

/-- A row that writes and goes on. -/
theorem AtStep.write {v : Word} (h : AtStep i n c (p :: ps) s) (hrow : rowOf i n = some ms)
    (hms : microStep ms s = store r v s State.advance) :
    step s = .next (s.accessed s.eng.t (n + 1) (periphAfterWrite r v p) ps [.write r v]) := by
  obtain ⟨hw, -, -, rfl⟩ := h.running
  exact (h.step_eq hrow).trans (hms.trans (store_queued hw h.mock h.turns r v _))

/-- Such rows lead to the row after them. -/
theorem Passes.run (h : Passes i c n n' qs es) (hs : AtStep i n c (qs ++ ps) s) :
    ∃ v p, stepN qs.length s = .next (s.accessed v n' p ps es) ∧ AtStep i n' c ps (s.accessed v n' p ps es) := by
  obtain ⟨v, p, hrun⟩ := h ps s hs
  exact ⟨v, p, hrun, hs.accessed v n' p ps es⟩

theorem Passes.trans (h : Passes i c n n' qs es) (h' : Passes i c n' n'' qs' es') :
    Passes i c n n'' (qs ++ qs') (es ++ es') := by
  intro ps s hs
  rw [List.append_assoc] at hs
  obtain ⟨v, p, hrun, hs'⟩ := h.run hs
  obtain ⟨v', p', hrun'⟩ := h' ps _ hs'
  refine ⟨v', p', ?_⟩
  rw [List.length_append, stepN_add, hrun, andThen_next, hrun', accessed_accessed]

/-- One step that makes one access. -/
theorem passes_of_step {e : TraceEntry}
    (h : ∀ ps s, AtStep i n c (q :: ps) s → ∃ v p, step s = .next (s.accessed v n' p ps [e])) :
    Passes i c n n' [q] [e] := by
  intro ps s hs
  obtain ⟨v, p, hstep⟩ := h ps s hs
  exact ⟨v, p, by rw [List.length_singleton, stepN_succ, hstep]; rfl⟩

/-- A writing row. -/
theorem passes_put {v : Word} (hrow : rowOf i n = some ms) (hput : IsPut ms i c r v) :
    Passes i c n (n + 1) [p] [.write r v] :=
  passes_of_step fun _ s hs =>
    have ⟨_, _, hl, _⟩ := hs.running
    ⟨_, _, hs.write hrow (hput s hs.cfg hl)⟩

/-- The two rows of a read-modify-write: the value written is `f` of the value read (40_microops.md R132, R138). -/
theorem passes_readModifyWrite (f : Word → Word) (hrow : rowOf i n = some ms) (hrow' : rowOf i (n + 1) = some ms')
    (hms : ∀ s, microStep ms s = readHalf r s)
    (hms' : ∀ s : State, s.cfg = c → microStep ms' s = store r (f s.eng.t) s State.advance) :
    Passes i c n (n + 2) [p, q] [.read r (periphReadValue r p), .write r (f (periphReadValue r p))] := by
  intro ps s hs
  have hread := hs.read (ps := q :: ps) hrow (hms s)
  have hs' := hs.accessed (periphReadValue r p) (n + 1) (periphAfterRead r p) (q :: ps) [.read r (periphReadValue r p)]
  have hwrite := hs'.write hrow' (hms' _ hs'.cfg)
  rw [accessed_accessed] at hwrite
  exact ⟨_, _, (stepN_succ 1 s).trans (by rw [hread, andThen_next, stepN_succ, hwrite]; rfl)⟩

/-- The two rows of `WBK`. -/
theorem passes_writeBack (hrow : rowOf i n = some (.wbkRead r)) (hrow' : rowOf i (n + 1) = some (.wbkWrite r)) :
    Passes i c n (n + 2) [p, q] [.read r (periphReadValue r p), .write r (periphReadValue r p)] :=
  passes_readModifyWrite id hrow hrow' (fun _ => rfl) fun _ _ => rfl

/-- The two rows of `SETB`. -/
theorem passes_setBit {b : FlagBit} (hrow : rowOf i n = some (.setbRead r))
    (hrow' : rowOf i (n + 1) = some (.setbWrite r b)) :
    Passes i c n (n + 2) [p, q] [.read r (periphReadValue r p), .write r (periphReadValue r p ||| c.mask b)] :=
  passes_readModifyWrite (· ||| c.mask b) hrow hrow' (fun _ => rfl) (by rintro s rfl; rfl)

/-- A busy-wait that the last of the queued moves ends, by induction on the reads before it. -/
theorem passes_wait {ready : Word → Bool} {ws : List Periph} (hrow : rowOf i n = some ms)
    (hwait : IsWait ms c r ready) (hr : r ≠ .fifo) (hnot : ∀ p ∈ ws, ready (periphReadValue r p) = false)
    (hready : ready (periphReadValue r q) = true) :
    Passes i c n (n + 1) (ws ++ [q])
      (ws.map (fun p => .read r (periphReadValue r p)) ++ [.read r (periphReadValue r q)]) := by
  induction ws with
  | nil =>
    refine passes_of_step fun ps s hs => ⟨periphReadValue r q, periphAfterRead r q, ?_⟩
    have hload := hwait s hs.cfg
    obtain ⟨hw, -, -, rfl⟩ := hs.running
    rw [loadT_queued hw hs.mock hs.turns, if_pos (by exact hready)] at hload
    exact (hs.step_eq hrow).trans hload
  | cons w ws ih =>
    have hstay : Passes i c n n [w] [.read r (periphReadValue r w)] := by
      refine passes_of_step fun ps s hs => ⟨periphReadValue r w, w, ?_⟩
      obtain rfl := hs.cfg
      obtain ⟨hw, -, -, rfl⟩ := hs.running
      exact (hs.step_eq hrow).trans (wait_queued hw hs.mock hs.turns hwait hr (hnot w (by simp)))
    exact hstay.trans (ih fun p hp => hnot p (List.mem_cons_of_mem w hp))

/-- A wait for a bit to clear. -/
theorem passes_poll0 {b : FlagBit} {ws : List Periph} (hrow : rowOf i n = some (.poll0 r b)) (hr : r ≠ .fifo)
    (hset : ∀ p ∈ ws, anySet (periphReadValue r p) (c.mask b) = true)
    (hclear : anySet (periphReadValue r q) (c.mask b) = false) :
    Passes i c n (n + 1) (ws ++ [q])
      (ws.map (fun p => .read r (periphReadValue r p)) ++ [.read r (periphReadValue r q)]) :=
  passes_wait hrow (poll0_isWait c r b) hr (fun p hp => congrArg not (hset p hp)) (congrArg not hclear)

/-- FLUSH (41_flush.md R151). -/
theorem passes_flush {f : FlushTurns} (hop : i.opcode ≠ 0x04#8) (hf : f.Ends c) :
    Passes i c 0 10 f.turns (f.trace c) := by
  obtain ⟨htx, htxDone, hrx, hrxDone⟩ := hf
  have hrow (n : Nat) (hn : n < 10) := rowOf_flush hop hn
  have h2 := passes_writeBack (c := c) (p := f.read0) (q := f.write0) (hrow 0 (by decide)) (hrow 1 (by decide))
  have h4 := passes_writeBack (c := c) (p := f.read1) (q := f.write1) (hrow 2 (by decide)) (hrow 3 (by decide))
  have h6 := passes_setBit (c := c) (p := f.txRead) (q := f.txWrite) (hrow 4 (by decide)) (hrow 5 (by decide))
  have h7 := passes_poll0 (b := .txflush) (hrow 6 (by decide)) (by decide) htx htxDone
  have h9 := passes_setBit (c := c) (p := f.rxRead) (q := f.rxWrite) (hrow 7 (by decide)) (hrow 8 (by decide))
  have h10 := passes_poll0 (b := .rxflush) (hrow 9 (by decide)) (by decide) hrx hrxDone
  simpa [FlushTurns.turns, FlushTurns.trace, periphReadValue, Config.mask] using
    h2.trans (h4.trans (h6.trans (h7.trans (h9.trans h10))))

/-- The address byte, START and the register address (42_regwr.md R161). -/
theorem passes_address {addr reg : Byte} (a : AddressTurns) (hop : i.opcode ≠ 0x04#8)
    (haddr : ∀ e, latched e = some i → e.addr = addr) (hreg : ∀ e, latched e = some i → e.reg = reg) :
    Passes i c 10 14 a.turns (a.trace c addr reg) := by
  have hrow (n : Nat) (hn : n < 4) := rowOf_address hop hn
  have h11 := passes_put (p := a.addrPush) (hrow 0 (by decide)) (push_isPut (o := .addr) c haddr)
  have h13 := passes_setBit (c := c) (p := a.startRead) (q := a.startWrite) (hrow 1 (by decide)) (hrow 2 (by decide))
  have h14 := passes_put (p := a.regPush) (hrow 3 (by decide)) (push_isPut (o := .reg) c hreg)
  exact h11.trans (h13.trans h14)

/-- STOP, the wait for STOPF and its clearing (42_regwr.md R161, 44_regrd.md R181). -/
theorem passes_stop {z : StopTurns} (hrow : ∀ k < 5, rowOf i (n + k) = stopTable[k]?) (hz : z.Ends c) :
    Passes i c n (n + 4) ([z.stopRead, z.stopWrite] ++ (z.stopWait ++ [z.stopDone] ++ [z.clear]))
      ([.read .mctrl z.stopRead.mctrl, .write .mctrl (z.stopRead.mctrl ||| c.mStop)] ++
        (z.stopWait.map (fun p => .read .intfl0 p.intfl0) ++ [.read .intfl0 z.stopDone.intfl0] ++
          [.write .intfl0 c.mStopf])) := by
  obtain ⟨hwaiting, hdone⟩ := hz
  have h2 := passes_setBit (c := c) (p := z.stopRead) (q := z.stopWrite) (hrow 0 (by decide)) (hrow 1 (by decide))
  have h3 := passes_wait (hrow 2 (by decide)) (poll1_isWait c .intfl0 .stopf) (by decide) hwaiting hdone
  have h4 := passes_put (p := z.clear) (hrow 3 (by decide)) (w1c_isPut i c .intfl0 .stopf)
  exact h2.trans (h3.trans h4)

/-- The evaluation after such rows completes the command (42_regwr.md R163, 60_exceptions.md R202). -/
theorem Passes.eval (h : Passes i c n n' qs es) (hrow : rowOf i n' = some .eval) (hs : AtStep i n c (qs ++ q :: ps) s) :
    stepN (qs.length + 1) s = .next { s with
      eng := { s.eng with t := q.intfl0, status := transactionStatus c q.intfl0, busy := false, upc := n' }
      periph := q
      turns := ps
      trace := s.trace ++ es ++ [.read .intfl0 q.intfl0] } := by
  obtain ⟨v, p, hrun, hs'⟩ := h.run hs
  have ⟨hw, _⟩ := hs'.running
  obtain rfl := hs.cfg
  rw [stepN_succ_row hrun hs'.running hs'.input hrow, eval_queued hw hs'.mock hs'.turns]
  rfl

/-- The last five rows of a transaction complete it with the status of the evaluating read. -/
theorem AtStep.stop {z : StopTurns} (hs : AtStep i n c (z.turns ++ ps) s)
    (hrow : ∀ k < 5, rowOf i (n + k) = stopTable[k]?) (hz : z.Ends c) :
    stepN (z.stopWait.length + 5) s = .next { s with
      eng := { s.eng with
        t := z.eval.intfl0, status := transactionStatus c z.eval.intfl0, busy := false, upc := n + 4 }
      periph := z.eval
      turns := ps
      trace := s.trace ++ z.trace c } := by
  have heval := (passes_stop hrow hz).eval (hrow 4 (by decide)) (q := z.eval) (ps := ps) (s := s)
    (by simpa [StopTurns.turns] using hs)
  simpa [StopTurns.trace] using heval

end

/-- Settles O30: FLUSH, the address bytes, the value byte, and the end of the transaction. -/
theorem regwrTransaction : Obligations.RegwrTransaction := by
  intro s addr reg val f a v z rest hidle hm hin hf hz ht
  have hop : (Instr.regwr addr reg val).opcode ≠ 0x04#8 := by simp [Instr.opcode]
  have hval : Passes (.regwr addr reg val) s.cfg 14 15 [v] [.write .fifo (val.setWidth 32)] :=
    passes_put (ms := .push .val) rfl (push_isPut _ fun e hl => (latched_regwr hl).2.2)
  have hpasses := ((passes_flush hop hf).trans (passes_address a hop (fun _ hl => (latched_regwr hl).1)
    fun _ hl => (latched_regwr hl).2.1)).trans hval
  have start : AtStep (.regwr addr reg val) 0 s.cfg (f.turns ++ a.turns ++ [v] ++ (z.turns ++ rest))
      (s.issue (.regwr addr reg val)) :=
    ⟨⟨hidle.1, rfl, latched_issue s _, rfl⟩, rfl, hin, hm, by simp [ht]⟩
  obtain ⟨w, p, hrun, hs⟩ := hpasses.run start
  have hstop := hs.stop (fun k hk => rowOf_stop (.inl ⟨.inl rfl, rfl⟩) hk) hz
  have hsteps : 20 + f.txWait.length + f.rxWait.length + z.stopWait.length =
      (f.turns ++ a.turns ++ [v]).length + (z.stopWait.length + 5) := by
    simp [FlushTurns.turns, AddressTurns.turns]
    omega
  rw [issueAndRun_idle hidle, hsteps, stepN_add, hrun, andThen_next, hstop]
  simp [State.accessed, State.issue, latch, Instr.opcode]

end Sys2Proof.Machine

/-! Proofs of the statements of 43_bufwr.md: the rows of its own, BUFWR from issue to completion, and REGWR as a BUFWR of
one byte. -/

namespace Sys2Proof.Machine

/-! ### The two rows that only BUFWR has (43_bufwr.md R172) -/

section
variable {s : State} {addr reg : Byte} {len : Word} {n : Nat}

/-- The length check, `CHK` (40_microops.md R140). -/
theorem exec_chk (hrun : Running (.bufwr addr reg len) chkStep s) :
    exec (.bufwr addr reg len) s =
      if len.toInt > (s.cfg.fifoDepth : Int) - 2 then .next (s.complete s.cfg.stBadParam)
      else if len.toInt < 0 then .refused .negativeLength
      else .next ((s.setIdx 0#32).setUpc 0) := by
  obtain ⟨hlong, hnegative, hadmitted⟩ := chklenDecides s addr reg len hrun
  split
  · exact hlong ‹_›
  · split
    · exact hnegative ‹_›
    · exact hadmitted (by omega) (by omega)

/-- The payload step, step 14. -/
theorem exec_payload (hrun : Running (.bufwr addr reg len) 14 s) :
    exec (.bufwr addr reg len) s =
      if (s.eng.idx.toNat : Int) < len.toInt then
        andThen (bufRead s.eng.idx.toNat s) fun b => push b s fun s' => s'.setIdx (s'.eng.idx + 1#32)
      else .next s.advance := by
  have ⟨_, _, hl, _⟩ := hrun
  rw [exec_row hrun (row_payload_iff.2 ⟨rfl, rfl⟩), ← (latched_bufwr hl).2.2]
  simp [microStep, payloadStep, payloadLeft]

theorem exec_payload_done (hrun : Running (.bufwr addr reg len) 14 s) (hdone : len.toInt ≤ (s.eng.idx.toNat : Int)) :
    exec (.bufwr addr reg len) s = .next s.advance := by
  rw [exec_payload hrun, if_neg (by omega)]

/-- A written byte below `LEN` is pushed. -/
theorem exec_payload_written {b : Byte} (hrun : Running (.bufwr addr reg len) 14 s)
    (hleft : (s.eng.idx.toNat : Int) < len.toInt) (hcap : s.eng.idx.toNat < s.cfg.bufcap)
    (hread : s.payload.read s.eng.idx.toNat = some b) :
    exec (.bufwr addr reg len) s = push b s fun s' => s'.setIdx (s'.eng.idx + 1#32) := by
  rw [exec_payload hrun, if_pos hleft, bufRead_written hcap hread, andThen_next]

end

/-- Settles O14: the two rows of BUFWR's own, and those it shares with REGWR. -/
theorem bufwrStepTable : Obligations.BufwrStepTable := by
  intro addr reg len s
  refine ⟨fun hidle => ⟨_, exec_idle hidle, hidle.1, rfl, latched_issue s _, rfl⟩, fun n hrun => ?_⟩
  have ⟨_, _, hl, _⟩ := hrun
  obtain ⟨haddr, hreg, -⟩ := latched_bufwr hl
  have hchk := fun hn : n = 31 => exec_chk (hn ▸ hrun)
  obtain ⟨h0, h1, h2, h3, h4, h5, h6, h7, h8, h9⟩ := exec_flush (by simp [Instr.opcode]) hrun
  obtain ⟨h10, h11, h12, h13⟩ := exec_address (by simp [Instr.opcode]) hrun haddr hreg
  have h14 := fun hn : n = 14 => exec_payload (hn ▸ hrun)
  obtain ⟨h15, h16, h17, h18, h19⟩ := exec_stop (.inl ⟨.inr rfl, rfl⟩) hrun
  exact ⟨hchk, h0, h1, h2, h3, h4, h5, h6, h7, h8, h9, h10, h11, h12, h13, h14, h15, h16, h17, h18, h19⟩

/-- Settles O27: below `LEN` the byte at `IDX` is read first, and only a written one is pushed. -/
theorem payloadStepPushesTheNextByte : Obligations.PayloadStepPushesTheNextByte := by
  intro s addr reg len p ps hrun hm ht
  have ⟨hw, _, _, hn⟩ := hrun
  refine ⟨fun b hleft hcap hread => ?_, fun hleft hcap hread => ?_, fun hdone => ?_⟩
  · exact (exec_payload_written hrun hleft hcap hread).trans (push_queued hw hm ht b _)
  · rw [exec_payload hrun, if_pos hleft, bufRead_unwritten hcap hread, andThen_refused]
  · rw [exec_payload_done hrun hdone, State.advance, hn]
    rfl

/-! ### A length that is too long (43_bufwr.md R171) -/

/-- BUFWR's first step after its issue is the length check. -/
theorem step_issue_bufwr {s : State} (hidle : Idle s) (hin : s.input = none) (addr reg : Byte) (len : Word) :
    step (s.issue (.bufwr addr reg len)) =
      if len.toInt > (s.cfg.fifoDepth : Int) - 2 then
        .next ((s.issue (.bufwr addr reg len)).complete s.cfg.stBadParam)
      else if len.toInt < 0 then .refused .negativeLength
      else .next (((s.issue (.bufwr addr reg len)).setIdx 0#32).setUpc 0) := by
  have hrun : Running (.bufwr addr reg len) chkStep (s.issue (.bufwr addr reg len)) :=
    ⟨hidle.1, rfl, latched_issue s _, rfl⟩
  exact (step_running hrun hin).trans (exec_chk hrun)

/-- Settles O32: the length check is the first step after the issue, and it completes the command. -/
theorem bufwrTooLongTouchesNothing : Obligations.BufwrTooLongTouchesNothing := by
  intro s addr reg len hidle hin hlong
  rw [issueAndRun_idle hidle, stepN_succ, step_issue_bufwr hidle hin, if_pos hlong]
  rfl

/-! ### The payload bytes, PERIPHERAL's moves being queued -/

/-- `IDX` does not wrap below a signed length. -/
theorem toNat_succ_of_lt_toInt {idx len : Word} (h : (idx.toNat : Int) < len.toInt) :
    (idx + 1#32).toNat = idx.toNat + 1 := by
  have hlen := BitVec.toInt_lt (x := len)
  rw [BitVec.toNat_add]
  exact Nat.mod_eq_of_lt (by simp at hlen ⊢; omega)

section
variable {addr reg : Byte} {len : Word} {n : Nat} {c : Config} {bytes : List Byte} {vs ps : List Periph} {s : State}

theorem AtStep.setIdx {i : Instr} (h : AtStep i n c ps s) (v : Word) : AtStep i n c ps (s.setIdx v) :=
  ⟨h.running, h.cfg, h.input, h.mock, h.turns⟩

/-- The payload step, a byte being left to push. -/
theorem AtStep.pushPayload {v : Periph} {b : Byte} (h : AtStep (.bufwr addr reg len) 14 c (v :: ps) s)
    (hleft : (s.eng.idx.toNat : Int) < len.toInt) (hcap : s.eng.idx.toNat < c.bufcap)
    (hread : s.payload.read s.eng.idx.toNat = some b) :
    ∃ p, step s =
      .next ((s.accessed s.eng.t 14 p ps [.write .fifo (b.setWidth 32)]).setIdx (s.eng.idx + 1#32)) := by
  obtain rfl := h.cfg
  have ⟨hw, _, _, hn⟩ := h.running
  rw [step_running h.running h.input, exec_payload_written h.running hleft hcap hread, push_queued hw h.mock h.turns,
    ← hn]
  exact ⟨_, rfl⟩

/-- The payload step pushes the bytes from `IDX` up to `LEN`, one a step, and is then left without an access, by
induction on these bytes. -/
theorem AtStep.payload (h : AtStep (.bufwr addr reg len) 14 c (vs ++ ps) s) (hvs : vs.length = bytes.length)
    (hlen : len.toInt = (s.eng.idx.toNat : Int) + bytes.length) (hcap : s.eng.idx.toNat + bytes.length ≤ c.bufcap)
    (hread : ∀ k b, bytes[k]? = some b → s.payload.read (s.eng.idx.toNat + k) = some b) :
    ∃ t, stepN (bytes.length + 1) s = .next t ∧ AtStep (.bufwr addr reg len) 15 c ps t ∧
      ∃ p, t = (s.accessed s.eng.t 15 p ps (bytes.map fun b => .write .fifo (b.setWidth 32))).setIdx len := by
  induction bytes generalizing s vs with
  | nil =>
    obtain rfl := List.eq_nil_of_length_eq_zero hvs
    have ⟨hw, hb, hl, hn⟩ := h.running
    have hdone : len.toInt = (s.eng.idx.toNat : Int) := by simpa using hlen
    have hidx : s.eng.idx = len := (counted_end hdone.ge (by omega) 15 (by decide)).2.2 (by decide)
    have hturns : s.turns = ps := h.turns
    refine ⟨s.advance, ?_, ⟨⟨hw, hb, hl, congrArg (· + 1) hn⟩, h.cfg, h.input, h.mock, h.turns⟩, s.periph, ?_⟩
    · rw [List.length_nil, stepN_succ, step_running h.running h.input, exec_payload_done h.running hdone.le]
      rfl
    · simp [State.accessed, State.setIdx, State.advance, State.setUpc, hn, ← hidx, ← hturns]
  | cons b bytes ih =>
    obtain _ | ⟨v, vs⟩ := vs
    · cases hvs
    simp only [List.length_cons, Nat.cast_add, Nat.cast_one, Nat.add_right_cancel_iff] at hvs hlen hcap
    have hleft : (s.eng.idx.toNat : Int) < len.toInt := by omega
    obtain ⟨p, hpush⟩ := AtStep.pushPayload (ps := vs ++ ps) h hleft (by omega) (hread 0 b rfl)
    have hidx := toNat_succ_of_lt_toInt hleft
    obtain ⟨_, hrest, hs, p', rfl⟩ := ih ((h.accessed s.eng.t 14 p (vs ++ ps) _).setIdx (s.eng.idx + 1#32)) hvs
      (by rw [setIdx_eng_idx, hidx]; push_cast; omega) (by rw [setIdx_eng_idx, hidx]; omega)
      (by
        intro k b' hk
        rw [setIdx_eng_idx, hidx, Nat.add_right_comm, Nat.add_assoc]
        exact hread (k + 1) b' hk)
    refine ⟨_, ?_, hs, p', ?_⟩
    · rw [List.length_cons, stepN_succ, hpush, andThen_next, hrest]
    · simp [State.accessed, State.setIdx]

end

/-- Settles O31: the length check, FLUSH, the address bytes, the payload bytes, and the end of the transaction. -/
theorem bufwrTransaction : Obligations.BufwrTransaction := by
  intro s addr reg len bytes f a vs z rest hidle hm hin hf hz hlen hdepth hvs hread ht
  have hop : (Instr.bufwr addr reg len).opcode ≠ 0x04#8 := by simp [Instr.opcode]
  have hcap := fifoDepth_le_bufcap hidle.1
  have hchk := step_issue_bufwr hidle hin addr reg len
  rw [if_neg (by omega), if_neg (by omega)] at hchk
  have start : AtStep (.bufwr addr reg len) 0 s.cfg (f.turns ++ a.turns ++ (vs ++ (z.turns ++ rest)))
      (((s.issue (.bufwr addr reg len)).setIdx 0#32).setUpc 0) :=
    ⟨⟨hidle.1, rfl, latched_issue s _, rfl⟩, rfl, hin, hm, by simp [ht]⟩
  obtain ⟨w, p, hrun, hs⟩ := ((passes_flush hop hf).trans (passes_address a hop (fun _ hl => (latched_bufwr hl).1)
    fun _ hl => (latched_bufwr hl).2.1)).run start
  obtain ⟨_, hpayload, hs', p', rfl⟩ := hs.payload hvs (by simpa [State.accessed] using hlen)
    (by simp [State.accessed]; omega)
    (by
      intro k b hk
      obtain ⟨hlt, rfl⟩ := List.getElem?_eq_some_iff.1 hk
      simpa [State.accessed] using hread k hlt)
  have hstop := hs'.stop (fun k hk => rowOf_stop (.inl ⟨.inr rfl, rfl⟩) hk) hz
  have hsteps : 21 + bytes.length + f.txWait.length + f.rxWait.length + z.stopWait.length =
      (f.turns ++ a.turns).length + ((bytes.length + 1) + (z.stopWait.length + 5)) + 1 := by
    simp [FlushTurns.turns, AddressTurns.turns]
    omega
  rw [issueAndRun_idle hidle, hsteps, stepN_succ, hchk, andThen_next, stepN_add, hrun, andThen_next, stepN_add,
    hpayload, andThen_next, hstop]
  simp [State.accessed, State.issue, State.setIdx, State.setUpc, latch, Instr.opcode]

/-! ### REGWR as a BUFWR of one byte (43_bufwr.md R176) -/

/-- `IDX` of a BUFWR of one byte where REGWR's next step is step `n`: it counts the byte once REGWR has pushed its
value. -/
def oneByteIdx (n : Nat) : Word := if n ≤ 14 then 0#32 else 1#32

/-- How many steps such a BUFWR is behind: one for the length check, and one for leaving the payload step. -/
def oneByteLag (n : Nat) : Nat := if n ≤ 14 then 1 else 2

theorem oneByteIdx_succ {n : Nat} (hn : n ≠ 14) : oneByteIdx (n + 1) = oneByteIdx n := by
  have hle : n + 1 ≤ 14 ↔ n ≤ 14 := by omega
  simp only [oneByteIdx, hle]

theorem oneByteLag_succ {n : Nat} (hn : n ≠ 14) : oneByteLag (n + 1) = oneByteLag n := by
  have hle : n + 1 ≤ 14 ↔ n ≤ 14 := by omega
  simp only [oneByteLag, hle]

/-- The engine of a BUFWR of one byte where REGWR's engine is `e`. -/
def oneByteEngine (e : Engine) : Engine :=
  { e with op := 0x02#8, val := 0#8, len := 1#32, idx := oneByteIdx e.upc }

/-- The state of a BUFWR of one byte where REGWR's state is `u`. -/
def State.oneByte (u : State) : State := u.withEng (oneByteEngine u.eng)

/-- REGWR runs or has completed, with the byte it writes at index 0 of the payload buffer space and HOST having nothing
to do. -/
structure OneByteRun (u : State) : Prop where
  wf : u.cfg.wf = true
  op : u.eng.op = 0x01#8
  byte : u.payload.read 0 = some u.eng.val
  input : u.input = none
  host : u.host = []
  completed : u.eng.busy = false → 14 < u.eng.upc

/-! #### Side by side -/

theorem Lockstep.of_next {α β : Type} {R : α → β → Prop} {a : α} {o : Host.Outcome β Fault Refusal}
    (h : Lockstep R (.next a) o) : ∃ b, o = .next b ∧ R a b := by
  cases h with
  | next h => exact ⟨_, rfl, h⟩

/-- Two writes of the same value by micro-steps that differ in the engine and in how they go on. -/
theorem store_next_withEng {r : Reg} {v : Word} {s t : State} {k : State → State} (hw : s.cfg.wf = true)
    (h : store r v s k = .next t) (e : Engine) (k' : State → State) :
    ∃ s1, s1.eng = s.eng ∧ t = k s1 ∧ store r v (s.withEng e) k' = .next (k' (s1.withEng e)) := by
  obtain ⟨s1, hwrite, hk⟩ := andThen_eq_next.1 h
  cases hk
  have hlock := memWrite_withEng (regAddr s.cfg r) v s e
  rw [hwrite] at hlock
  obtain ⟨_, hwrite', rfl⟩ := hlock.of_next
  exact ⟨s1, (memWrite_next hw hwrite).1.eng, rfl, by rw [store, withEng_cfg, hwrite', andThen_next]⟩

/-! #### The rows that the two tables share -/

/-- The tables of REGWR and BUFWR differ at step 14 only (42_regwr.md R161, 43_bufwr.md R172). -/
theorem rowOf_bufwr_of_regwr {addr reg val : Byte} {n : Nat} {m : MicroStep}
    (hrow : rowOf (.regwr addr reg val) n = some m) (hn : n ≠ 14) (len : Word) :
    rowOf (.bufwr addr reg len) n = some m := by
  have hall : ∀ k < 32, k ≠ 14 → regwrRow k = none ∨ bufwrRow k = regwrRow k := by decide
  obtain hnone | hsame := hall n (rowOf_lt hrow) hn
  · cases hnone.symm.trans hrow
  · exact hsame.trans hrow

section
variable {addr reg val : Byte} {m : MicroStep} {e : Engine}

/-- A shared row takes the same operands from both engines: only step 14 pushes `VAL`. -/
theorem sameOperands_oneByte (hrow : rowOf (.regwr addr reg val) e.upc = some m) (hn : e.upc ≠ 14) :
    SameOperands m e (oneByteEngine e) := by
  have hfit := rowOf_fits hrow
  have hfit' := rowOf_fits (rowOf_bufwr_of_regwr hrow hn 1#32)
  cases m with
  | push o =>
    cases o with
    | val => simp [fitsTable, Instr.opcode] at hfit'
    | _ => rfl
  | chklen | payload | call k => simp [fitsTable, Instr.opcode] at hfit
  | wbkWrite r | setbWrite r b => rfl
  | _ => trivial

/-- A shared row does the same to both engines. -/
theorem engineAfter_oneByte (hrow : rowOf (.regwr addr reg val) e.upc = some m) (hn : e.upc ≠ 14) (c : Config)
    (v : Word) : engineAfter m c v (oneByteEngine e) = oneByteEngine (engineAfter m c v e) := by
  have hfit := rowOf_fits hrow
  cases m with
  | chklen | payload | call k => simp [fitsTable, Instr.opcode] at hfit
  | poll1 r b | poll0 r b =>
    simp only [engineAfter, oneByteEngine]
    split <;> simp only [oneByteIdx_succ hn]
  | eval | finish => rfl
  | _ => simp only [engineAfter, oneByteEngine, oneByteIdx_succ hn]

end

/-! #### One step of REGWR -/

/-- An idle engine that hears nothing more stays as it is. -/
theorem step_idle_done {s : State} (hb : s.eng.busy = false) (hin : s.input = none) (hhost : s.host = []) :
    step s = .next s := by
  simp [step, turn, hin, hb, hostTurn, hhost]

section
variable {u u' : State}

theorem OneByteRun.latched (h : OneByteRun u) : latched u.eng = some (.regwr u.eng.addr u.eng.reg u.eng.val) := by
  simp [Machine.latched, h.op]

/-- BUFWR runs where REGWR does. -/
theorem OneByteRun.running (h : OneByteRun u) (hb : u.eng.busy = true) :
    Running (.bufwr u.eng.addr u.eng.reg 1#32) u.eng.upc u.oneByte :=
  ⟨h.wf, hb, by simp [State.oneByte, oneByteEngine, Machine.latched], rfl⟩

/-- A step of REGWR that is running. -/
theorem OneByteRun.row (h : OneByteRun u) (hstep : step u = .next u') (hb : u.eng.busy = true) :
    ∃ m, rowOf (.regwr u.eng.addr u.eng.reg u.eng.val) u.eng.upc = some m ∧ microStep m u = .next u' := by
  obtain ⟨-, i, m, hl, hrow, hm⟩ := step_busy hstep hb
  obtain rfl := Option.some.inj (h.latched.symm.trans hl)
  exact ⟨m, hrow, hm⟩

/-- A running REGWR stays at its step or goes on to the next one. -/
theorem OneByteRun.upc_next (h : OneByteRun u) (hstep : step u = .next u') (hb : u.eng.busy = true) :
    u'.eng.upc = u.eng.upc ∨ u'.eng.upc = u.eng.upc + 1 := by
  obtain ⟨m, hrow, hm⟩ := h.row hstep hb
  obtain ⟨v, heng, -⟩ := microStep_engine h.wf hm
  rw [heng]
  refine engineAfter_upc u.cfg v u.eng ?_
  rintro rfl
  simpa [Instr.opcode] using (row_chklen_iff.1 hrow).1

/-- REGWR completes at step 19 only (42_regwr.md R161). -/
theorem OneByteRun.completes_late (h : OneByteRun u) (hstep : step u = .next u') (hb : u.eng.busy = true)
    (hdone : u'.eng.busy = false) : 14 < u'.eng.upc := by
  have hupc := h.upc_next hstep hb
  obtain ⟨-, hn, -⟩ | ⟨hop, -⟩ | ⟨hop, -⟩ | ⟨hop, -⟩ | ⟨hop, -⟩ | ⟨hop, -⟩ :=
    (completionHappensOnlyAtTheseSteps u u' hstep hb).1 hdone
  · omega
  all_goals simp [h.op] at hop

/-- REGWR goes on so, or stays completed. -/
theorem OneByteRun.keeps (h : OneByteRun u) (hstep : step u = .next u') : OneByteRun u' := by
  cases hb : u.eng.busy with
  | false =>
    cases (step_idle_done hb h.input h.host).symm.trans hstep
    exact h
  | true =>
    obtain ⟨m, -, hm⟩ := h.row hstep hb
    have hframe := microStep_frame h.wf hm
    refine ⟨hframe.cfg ▸ h.wf, hframe.op.trans h.op, ?_, hframe.input.trans h.input, hframe.host.trans h.host,
      h.completes_late hstep hb⟩
    rw [hframe.payload, hframe.val, h.byte]

/-- A shared row is one step of both commands. -/
theorem OneByteRun.shared (h : OneByteRun u) (hstep : step u = .next u') (hb : u.eng.busy = true)
    (hn : u.eng.upc ≠ 14) : step u.oneByte = .next u'.oneByte := by
  obtain ⟨m, hrow, hm⟩ := h.row hstep hb
  have hlock := microStep_lockstep h.wf (sameOperands_oneByte hrow hn)
  rw [hm] at hlock
  obtain ⟨_, hbufwr, v, heng, rfl, -⟩ := hlock.of_next
  rw [step_running (h.running hb) h.input, exec_row (h.running hb) (rowOf_bufwr_of_regwr hrow hn _), State.oneByte,
    hbufwr, engineAfter_oneByte hrow hn, ← heng]
  rfl

/-- Where REGWR is about to push `VAL`, BUFWR is about to push the byte at index 0. -/
theorem OneByteRun.exec_payload (h : OneByteRun u) (hb : u.eng.busy = true) (hn : u.eng.upc = 14) :
    exec (.bufwr u.eng.addr u.eng.reg 1#32) u.oneByte =
      push u.eng.val u.oneByte fun s' => s'.setIdx (s'.eng.idx + 1#32) := by
  have hidx : u.oneByte.eng.idx.toNat = 0 := by simp [State.oneByte, oneByteEngine, oneByteIdx, hn]
  have hcap : 0 < u.cfg.bufcap := by
    have hdepth := three_le_fifoDepth_of_wf h.wf
    have hle := fifoDepth_le_bufcap h.wf
    omega
  exact exec_payload_written (hn ▸ h.running hb) (by rw [hidx]; decide) (by rw [hidx]; exact hcap)
    (by rw [hidx]; exact h.byte)

/-- REGWR's push of `VAL` is two payload steps: the first pushes the byte at index 0, the second goes on. -/
theorem OneByteRun.pushed (h : OneByteRun u) (hstep : step u = .next u') (hb : u.eng.busy = true)
    (hn : u.eng.upc = 14) : u'.eng.upc = 15 ∧ stepN 2 u.oneByte = .next u'.oneByte := by
  have hw := (h.keeps hstep).wf
  have hin := (h.keeps hstep).input
  obtain ⟨m, hrow, hm⟩ := h.row hstep hb
  obtain rfl : MicroStep.push .val = m := Option.some.inj (by rwa [hn] at hrow)
  obtain ⟨s1, heng, rfl, hstore⟩ := store_next_withEng h.wf hm (oneByteEngine u.eng)
    fun s' => s'.setIdx (s'.eng.idx + 1#32)
  have hidx : (oneByteEngine u.eng).idx + 1#32 = 1#32 := by simp [oneByteEngine, oneByteIdx, hn]
  rw [withEng_eng, hidx] at hstore
  have ⟨_, _, hl, _⟩ := h.running hb
  have hrun : Running (.bufwr u.eng.addr u.eng.reg 1#32) 14 ((s1.withEng (oneByteEngine u.eng)).setIdx 1#32) :=
    ⟨hw, hb, hl, hn⟩
  refine ⟨by simp [heng, hn], ?_⟩
  rw [stepN_succ, step_running (h.running hb) h.input, (h.exec_payload hb hn).trans hstore, andThen_next, stepN_succ,
    step_running hrun hin, exec_payload_done hrun (by simp)]
  simp [State.oneByte, State.withEng, State.setIdx, State.advance, State.setUpc, oneByteEngine, oneByteIdx, heng, hn]

/-- A step of REGWR is a step of BUFWR, or two where REGWR pushes its value. -/
theorem OneByteRun.step (h : OneByteRun u) (hstep : Machine.step u = .next u') :
    ∃ k, stepN k u.oneByte = .next u'.oneByte ∧ k + oneByteLag u.eng.upc = oneByteLag u'.eng.upc + 1 := by
  cases hb : u.eng.busy with
  | false =>
    have hdone := step_idle_done (s := u.oneByte) hb h.input h.host
    cases (step_idle_done hb h.input h.host).symm.trans hstep
    exact ⟨1, by rw [stepN_succ, hdone]; rfl, Nat.add_comm _ _⟩
  | true =>
    by_cases hn : u.eng.upc = 14
    · obtain ⟨hn', hrun⟩ := h.pushed hstep hb hn
      exact ⟨2, hrun, by rw [hn, hn']; rfl⟩
    · have hlag : oneByteLag u'.eng.upc = oneByteLag u.eng.upc := by
        obtain hupc | hupc := h.upc_next hstep hb
        · rw [hupc]
        · rw [hupc, oneByteLag_succ hn]
      exact ⟨1, by rw [stepN_succ, h.shared hstep hb hn]; rfl, by omega⟩

end

/-- Wherever REGWR stands, BUFWR of that byte stands so many steps later, by induction on REGWR's steps. -/
theorem stepN_oneByte {s t : State} {addr reg val : Byte} {n : Nat} (hidle : Idle s) (hin : s.input = none)
    (hhost : s.host = []) (hbyte : s.payload.read 0 = some val)
    (hrun : stepN n (s.issue (.regwr addr reg val)) = .next t) :
    OneByteRun t ∧ stepN (n + oneByteLag t.eng.upc) (s.issue (.bufwr addr reg 1#32)) = .next t.oneByte := by
  induction n generalizing t with
  | zero =>
    cases hrun
    have hdepth := three_le_fifoDepth_of_wf hidle.1
    have hlen : (1#32).toInt = 1 := by decide
    refine ⟨⟨hidle.1, rfl, hbyte, hin, hhost, fun hb => by cases hb⟩, ?_⟩
    have hchk := step_issue_bufwr hidle hin addr reg 1#32
    rw [if_neg (by omega), if_neg (by omega)] at hchk
    change stepN 1 (s.issue (.bufwr addr reg 1#32)) = _
    rw [stepN_succ, hchk]
    rfl
  | succ n ih =>
    rw [stepN_add] at hrun
    obtain ⟨u, hrun, hstep⟩ := andThen_eq_next.1 hrun
    obtain ⟨t, hstep, ⟨⟩⟩ := andThen_eq_next.1 hstep
    obtain ⟨hu, hbufwr⟩ := ih hrun
    obtain ⟨k, hk, hlag⟩ := hu.step hstep
    refine ⟨hu.keeps hstep, ?_⟩
    have hsteps : n + 1 + oneByteLag t.eng.upc = (n + oneByteLag u.eng.upc) + k := by omega
    rw [hsteps, stepN_add, hbufwr, andThen_next, hk]

/-- Settles O50: the two tables differ at one row, and the payload step reads the byte that REGWR holds in `VAL`. -/
theorem regwrIsAOneByteBufwr : Obligations.RegwrIsAOneByteBufwr := by
  intro s t addr reg val n hidle hin hhost hbyte hrun
  rw [issueAndRun_idle hidle] at hrun
  obtain ⟨ht, hbufwr⟩ := stepN_oneByte hidle hin hhost hbyte hrun
  refine ⟨t.oneByte, _, (issueAndRun_idle hidle _).trans hbufwr, ?_, rfl, rfl, rfl, rfl, rfl, rfl, rfl, rfl,
    fun hb => ⟨?_, rfl⟩⟩
  · unfold oneByteLag
    split <;> simp
  · rw [oneByteLag, if_neg (ht.completed hb).not_ge]

end Sys2Proof.Machine

/-! Proofs of the statements of 44_regrd.md: the rows of the read part, and REGRD from issue to completion. -/

namespace Sys2Proof.Machine

/-! ### The rows that only REGRD has (44_regrd.md R181) -/

/-- The eight rows of the read part: the receive count, RESTART and its wait, the read address, the wait for the byte,
the byte, the clearing of RXTHRF. -/
theorem exec_receive {s : State} {addr reg : Byte} {n : Nat} (hrun : Running (.regrd addr reg) n s) :
    (n = 14 → exec (.regrd addr reg) s = store .rxcnt 0x00000001#32 s State.advance) ∧
      (n = 15 → exec (.regrd addr reg) s = loadT .mctrl s State.advance) ∧
      (n = 16 → exec (.regrd addr reg) s = store .mctrl (s.eng.t ||| s.cfg.mRestart) s State.advance) ∧
      (n = 17 → exec (.regrd addr reg) s = loadT .mctrl s fun s' =>
        if s'.eng.t &&& s.cfg.mRestart = 0#32 then s'.advance else s') ∧
      (n = 18 → exec (.regrd addr reg) s = store .fifo ((addr ||| 0x01#8).setWidth 32) s State.advance) ∧
      (n = 19 → exec (.regrd addr reg) s = loadT .intfl0 s fun s' =>
        if s'.eng.t &&& s.cfg.mRxthrf = 0#32 then s' else s'.advance) ∧
      (n = 20 → exec (.regrd addr reg) s = loadT .fifo s fun s' => (s'.setRdata (s'.eng.t.setWidth 8)).advance) ∧
      (n = 21 → exec (.regrd addr reg) s = store .intfl0 s.cfg.mRxthrf s State.advance) := by
  have ⟨_, _, hl, _⟩ := hrun
  obtain ⟨rfl, -⟩ := latched_regrd hl
  have row {m : MicroStep} (k : Nat) (hm : regrdTable[k]? = some m) (hn : n = k) :
      exec (.regrd s.eng.addr reg) s = microStep m s := exec_row hrun (hn ▸ hm)
  refine ⟨?_, ?_, ?_, fun hn => ?_, ?_, fun hn => ?_, ?_, ?_⟩
  · exact row (m := .wr .rxcnt 1#32) 14 rfl
  · exact row (m := .setbRead .mctrl) 15 rfl
  · exact row (m := .setbWrite .mctrl .restart) 16 rfl
  · exact (row 17 rfl hn).trans (poll0_eq .mctrl .restart)
  · exact row (m := .push .addrRead) 18 rfl
  · exact (row 19 rfl hn).trans (poll1_eq .intfl0 .rxthrf)
  · exact row (m := .pop) 20 rfl
  · exact row (m := .w1c .intfl0 .rxthrf) 21 rfl

/-- Settles O15: FLUSH, the address bytes, the read part, and the end of the transaction. -/
theorem regrdStepTable : Obligations.RegrdStepTable := by
  intro addr reg s
  refine ⟨fun hidle => ⟨_, exec_idle hidle, hidle.1, rfl, latched_issue s _, rfl⟩, fun n hrun => ?_⟩
  have ⟨_, _, hl, _⟩ := hrun
  obtain ⟨haddr, hreg⟩ := latched_regrd hl
  obtain ⟨h0, h1, h2, h3, h4, h5, h6, h7, h8, h9⟩ := exec_flush (by simp [Instr.opcode]) hrun
  obtain ⟨h10, h11, h12, h13⟩ := exec_address (by simp [Instr.opcode]) hrun haddr hreg
  obtain ⟨h14, h15, h16, h17, h18, h19, h20, h21⟩ := exec_receive hrun
  obtain ⟨h22, h23, h24, h25, h26⟩ := exec_stop (.inr ⟨rfl, rfl⟩) hrun
  exact ⟨h0, h1, h2, h3, h4, h5, h6, h7, h8, h9, h10, h11, h12, h13, h14, h15, h16, h17, h18, h19, h20, h21, h22, h23,
    h24, h25, h26⟩

/-! ### The read part, PERIPHERAL's moves being queued -/

/-- The part of `ReadTurns.turns` before the access of `POP`. -/
def ReadTurns.untilByte (r : ReadTurns) : List Periph :=
  [r.armRx, r.restartRead, r.restartWrite] ++ r.restartWait ++ [r.restartDone, r.readAddrPush] ++ r.byteWait ++
    [r.byteDone]

/-- The part of `ReadTurns.trace` before the entry of `POP`. -/
def ReadTurns.traceUntilByte (r : ReadTurns) (c : Config) (addr : Byte) : List TraceEntry :=
  [.write .rxcnt 1#32, .read .mctrl r.restartRead.mctrl, .write .mctrl (r.restartRead.mctrl ||| c.mRestart)] ++
    r.restartWait.map (fun p => .read .mctrl p.mctrl) ++
    [.read .mctrl r.restartDone.mctrl, .write .fifo (zextByte (readAddress addr))] ++
    r.byteWait.map (fun p => .read .intfl0 p.intfl0) ++ [.read .intfl0 r.byteDone.intfl0]

theorem ReadTurns.turns_eq (r : ReadTurns) : r.turns = r.untilByte ++ [r.pop, r.clear] := by
  simp [ReadTurns.turns, ReadTurns.untilByte]

theorem ReadTurns.trace_eq (r : ReadTurns) (c : Config) (addr : Byte) :
    r.trace c addr =
      r.traceUntilByte c addr ++ [.read .fifo (fifoReadValue r.pop), .write .intfl0 (c.mask .rxthrf)] := by
  simp [ReadTurns.trace, ReadTurns.traceUntilByte, zextByte, readAddress, Config.mask]

section
variable {addr reg : Byte} {c : Config} {r : ReadTurns} {p : Periph} {ps : List Periph} {s : State}

/-- `POP` is a read of the FIFO that also leaves the low byte of the value in `RDATA` (40_microops.md R137). -/
theorem AtStep.pop (h : AtStep (.regrd addr reg) 20 c (p :: ps) s) :
    ∃ t, step s = .next t ∧ AtStep (.regrd addr reg) 21 c ps t ∧
      ∃ v q, t = (s.setRdata ((fifoReadValue p).setWidth 8)).accessed v 21 q ps [.read .fifo (fifoReadValue p)] := by
  have ⟨hw, hb, hl, hn⟩ := h.running
  have hpop := h.step_eq (row_pop_iff.2 ⟨rfl, rfl⟩)
  rw [pop_eq, loadT_queued hw h.mock h.turns] at hpop
  refine ⟨_, hpop, ⟨⟨hw, hb, hl, congrArg (· + 1) hn⟩, h.cfg, h.input, h.mock, rfl⟩, fifoReadValue p,
    periphAfterRead .fifo p, ?_⟩
  simp [State.accessed, State.advance, State.setUpc, State.setRdata, hn, periphReadValue, lowByte]

/-- Steps 14 to 19: the receive count, RESTART and its wait, the read address, the wait for the byte. -/
theorem passes_untilByte (hr : r.Ends c) :
    Passes (.regrd addr reg) c 14 20 r.untilByte (r.traceUntilByte c addr) := by
  obtain ⟨hrestart, hrestartDone, hbyte, hbyteDone⟩ := hr
  have hrow := rowOf_regrd (i := .regrd addr reg) rfl
  have haddr (e : Engine) (hl : latched e = some (.regrd addr reg)) : pushByte .addrRead e = readAddress addr :=
    congrArg readAddress (latched_regrd hl).1
  have h15 := passes_put (p := r.armRx) (hrow 14) (wr_isPut _ c .rxcnt 1#32)
  have h17 := passes_setBit (c := c) (p := r.restartRead) (q := r.restartWrite) (hrow 15) (hrow 16)
  have h18 := passes_poll0 (b := .restart) (hrow 17) (by decide) hrestart hrestartDone
  have h19 := passes_put (p := r.readAddrPush) (hrow 18) (push_isPut c haddr)
  have h20 := passes_wait (hrow 19) (poll1_isWait c .intfl0 .rxthrf) (by decide) hbyte hbyteDone
  simpa [ReadTurns.untilByte, ReadTurns.traceUntilByte, periphReadValue, Config.mask] using
    h15.trans (h17.trans (h18.trans (h19.trans h20)))

/-- Steps 14 to 21 leave the popped byte in `RDATA`. -/
theorem AtStep.receive (h : AtStep (.regrd addr reg) 14 c (r.turns ++ ps) s) (hr : r.Ends c) :
    ∃ t, stepN r.turns.length s = .next t ∧ AtStep (.regrd addr reg) 22 c ps t ∧
      ∃ v p, t = (s.setRdata ((fifoReadValue r.pop).setWidth 8)).accessed v 22 p ps (r.trace c addr) := by
  rw [r.turns_eq, List.append_assoc] at h
  obtain ⟨w, q, hrun, h20⟩ := (passes_untilByte hr).run h
  obtain ⟨_, hpop, h21, w', q', rfl⟩ := h20.pop
  obtain ⟨v, p, hclear, h22⟩ := (passes_put rfl (w1c_isPut _ c .intfl0 .rxthrf)).run h21
  refine ⟨_, ?_, h22, v, p, ?_⟩
  · rw [r.turns_eq, List.length_append, stepN_add, hrun, andThen_next, List.length_cons, stepN_succ, hpop,
      andThen_next]
    exact hclear
  · simp [State.accessed, State.setRdata, r.trace_eq]

end

/-- Settles O34: FLUSH, the address bytes, the read part with the popped byte, and the end of the transaction. -/
theorem regrdTransaction : Obligations.RegrdTransaction := by
  intro s addr reg f a r z rest hidle hm hin hf hr hz ht
  have hop : (Instr.regrd addr reg).opcode ≠ 0x04#8 := by simp [Instr.opcode]
  have start : AtStep (.regrd addr reg) 0 s.cfg (f.turns ++ a.turns ++ (r.turns ++ (z.turns ++ rest)))
      (s.issue (.regrd addr reg)) :=
    ⟨⟨hidle.1, rfl, latched_issue s _, rfl⟩, rfl, hin, hm, by simp [ht]⟩
  obtain ⟨w, p, hrun, hs⟩ := ((passes_flush hop hf).trans (passes_address a hop (fun _ hl => (latched_regrd hl).1)
    fun _ hl => (latched_regrd hl).2)).run start
  obtain ⟨_, hreceive, hs', w', p', rfl⟩ := hs.receive hr
  have hstop := hs'.stop (fun k hk => rowOf_stop (.inr ⟨rfl, rfl⟩) hk) hz
  have hsteps : 27 + f.txWait.length + f.rxWait.length + r.restartWait.length + r.byteWait.length +
      z.stopWait.length = (f.turns ++ a.turns).length + (r.turns.length + (z.stopWait.length + 5)) := by
    simp [FlushTurns.turns, AddressTurns.turns, ReadTurns.turns]
    omega
  rw [issueAndRun_idle hidle, hsteps, stepN_add, hrun, andThen_next, stepN_add, hreceive, andThen_next, hstop]
  simp [State.accessed, State.setRdata, State.issue, latch, Instr.opcode]

end Sys2Proof.Machine

/-! Proofs of the statements of 45_init.md: INIT from issue to completion, and what its rows leave alone. -/

namespace Sys2Proof.Machine

/-! ### INIT's run, the collaborators' replies being queued (45_init.md R191 to R193) -/

/-- The state in which INIT, issued in `s`, stands at step `n`: the configuration fields are `env`, the replies `calls`
are still queued, and the calls `tr` were made. -/
def State.initAt (s : State) (speed : Word) (n : Nat) (env : PeriphConfig) (calls : List CallReply)
    (tr : List TraceEntry) : State :=
  { s with
    eng := { (s.issue (.init speed)).eng with upc := n }
    env := env
    calls := calls
    trace := s.trace ++ tr }

/-- `n` steps after its issue in `s` on an idle engine, with no mock and nothing arriving, INIT stands at step `n`. -/
structure InitReaches (s : State) (speed : Word) (n : Nat) (env : PeriphConfig) (calls : List CallReply)
    (tr : List TraceEntry) : Prop where
  idle : Idle s
  mock : s.mock = none
  input : s.input = none
  run : stepN n (s.issue (.init speed)) = .next (s.initAt speed n env calls tr)

/-- The trace entry of a call of INIT that the environment answers with `a`. -/
def initCall (s : State) (speed : Word) (k : Collaborator) (a : CallReply) : TraceEntry :=
  .call (callRecord k (s.issue (.init speed))) (some a.ret)

section
variable {s : State} {speed : Word} {n : Nat} {env : PeriphConfig} {a : CallReply} {as : List CallReply}
  {tr : List TraceEntry} {k : Collaborator}

theorem callRecord_initAt :
    callRecord k (s.initAt speed n env as tr) = callRecord k (s.issue (.init speed)) :=
  callRecord_congr k rfl rfl

theorem initReaches_zero (hidle : Idle s) (hm : s.mock = none) (hin : s.input = none) (hc : s.calls = as) :
    InitReaches s speed 0 s.env as [] :=
  ⟨hidle, hm, hin, by simp [State.initAt, State.issue, firstStep, ← hc]⟩

theorem InitReaches.running (h : InitReaches s speed n env as tr) :
    Running (.init speed) n (s.initAt speed n env as tr) :=
  ⟨h.idle.1, rfl, rfl, rfl⟩

/-- The step that follows is INIT's next micro-step. -/
theorem InitReaches.stepN_succ (h : InitReaches s speed n env as tr) {ms : MicroStep} (hrow : initRow n = some ms) :
    stepN (n + 1) (s.issue (.init speed)) = exec (.init speed) (s.initAt speed n env as tr) :=
  (stepN_succ_row h.run h.running h.input hrow).trans (exec_row h.running hrow).symm

/-- A call that succeeds leads to the next row with its effect. -/
theorem InitReaches.call (h : InitReaches s speed n env (a :: as) tr) (hrow : initRow n = some (.call k))
    (hok : callFails s.cfg k a.ret = false) :
    InitReaches s speed (n + 1) (envOnSuccess s.cfg k a.field env) as (tr ++ [initCall s speed k a]) := by
  refine ⟨h.idle, h.mock, h.input, ?_⟩
  rw [h.stepN_succ hrow, (exec_call_queued h.running h.mock rfl hrow).2 (Bool.eq_false_iff.1 hok), callRecord_initAt]
  simp [State.initAt, initCall]

/-- A call that fails completes INIT with the value it returned, the earlier effects standing. -/
theorem InitReaches.call_fails (h : InitReaches s speed n env (a :: as) tr) (hrow : initRow n = some (.call k))
    (hfail : callFails s.cfg k a.ret = true) :
    issueAndRun (.init speed) (n + 1) s =
      .next ((s.initAt speed n (envLeft k a.field env) as (tr ++ [initCall s speed k a])).complete a.ret) := by
  rw [issueAndRun_idle h.idle, h.stepN_succ hrow, (exec_call_queued h.running h.mock rfl hrow).1 hfail,
    callRecord_initAt]
  simp [State.initAt, initCall, State.complete]

/-- The GPIO action sets the bits of its mask (45_init.md R194). -/
theorem InitReaches.gpio (h : InitReaches s speed 4 env as tr) :
    InitReaches s speed 5 { env with gpioDs := env.gpioDs ||| s.cfg.gpioDsMask } as
      (tr ++ [.call (.gpioDriveStrength s.cfg.gpioDsMask) none]) := by
  refine ⟨h.idle, h.mock, h.input, ?_⟩
  rw [h.stepN_succ (ms := .gpiods) rfl, (gpioBitsThenInitCompletes _ speed).1 h.running]
  simp [State.initAt]

/-- The last step completes INIT with `ST_OK`. -/
theorem InitReaches.finish (h : InitReaches s speed 5 env as tr) :
    issueAndRun (.init speed) 6 s = .next ((s.initAt speed 5 env as tr).complete s.cfg.stOk) := by
  rw [issueAndRun_idle h.idle, h.stepN_succ (ms := .finish) rfl, (gpioBitsThenInitCompletes _ speed).2 h.running]
  rfl

end

section
variable {s : State} {speed : Word} {a0 a1 a2 : CallReply} {as : List CallReply}

/-- The first call having succeeded, INIT stands at set-frequency. -/
theorem InitReaches.toSetFrequency (h : InitReaches s speed 0 s.env (a0 :: as) []) (h0 : a0.ret = s.cfg.stOk) :
    InitReaches s speed 1 { s.env with mode := s.cfg.modeMaster } as [initCall s speed .peripheralInit a0] :=
  h.call (k := .peripheralInit) rfl (callFails_eq_false (by decide) h0)

/-- The first two calls having succeeded, INIT stands at the TX threshold. -/
theorem InitReaches.toSetTxThreshold (h : InitReaches s speed 0 s.env (a0 :: a1 :: as) []) (h0 : a0.ret = s.cfg.stOk)
    (h1 : 0 ≤ a1.ret.toInt) :
    InitReaches s speed 2 { s.env with mode := s.cfg.modeMaster, hz := a1.field } as
      [initCall s speed .peripheralInit a0, initCall s speed .setFrequency a1] :=
  (h.toSetFrequency h0).call (k := .setFrequency) rfl (decide_eq_false h1.not_gt)

/-- The first three calls having succeeded, INIT stands at the RX threshold. -/
theorem InitReaches.toSetRxThreshold (h : InitReaches s speed 0 s.env (a0 :: a1 :: a2 :: as) [])
    (h0 : a0.ret = s.cfg.stOk) (h1 : 0 ≤ a1.ret.toInt) (h2 : a2.ret = s.cfg.stOk) :
    InitReaches s speed 3 { s.env with mode := s.cfg.modeMaster, hz := a1.field, txthr := 1#32 } as
      [initCall s speed .peripheralInit a0, initCall s speed .setFrequency a1, initCall s speed .setTxThreshold a2] :=
  (h.toSetTxThreshold h0 h1).call (k := .setTxThreshold) rfl (callFails_eq_false (by decide) h2)

end

/-- Settles O35: the four calls succeed one after the other, then the GPIO action and the completion follow. -/
theorem initSucceeds : Obligations.InitSucceeds := by
  intro s speed a0 a1 a2 a3 rest hidle hm hin hc h0 h1 h2 h3
  have start := initReaches_zero (speed := speed) hidle hm hin hc
  have hcalls := (start.toSetRxThreshold h0 h1 h2).call (k := .setRxThreshold) rfl (callFails_eq_false (by decide) h3)
  exact hcalls.gpio.finish

/-- Settles O36: the calls before the failing one have led INIT to its row, and that row completes the command. -/
theorem initFailsFast : Obligations.InitFailsFast := by
  intro s speed a0 a1 a2 a3 rest hidle hm hin hc c0 c1 c2 c3 ends
  have start := initReaches_zero (speed := speed) hidle hm hin hc
  refine ⟨fun h0 => ?_, fun h0 h1 => ?_, fun h0 h1 h2 => ?_, fun h0 h1 h2 h3 => ?_⟩
  · exact start.call_fails (k := .peripheralInit) rfl (callFails_eq_true (by decide) h0)
  · exact (start.toSetFrequency h0).call_fails (k := .setFrequency) rfl (callFails_setFrequency_iff.2 h1)
  · exact (start.toSetTxThreshold h0 h1).call_fails (k := .setTxThreshold) rfl (callFails_eq_true (by decide) h2)
  · exact (start.toSetRxThreshold h0 h1 h2).call_fails (k := .setRxThreshold) rfl (callFails_eq_true (by decide) h3)

/-! ### What INIT leaves alone (45_init.md R190) -/

/-- The rows of INIT are calls, the GPIO action and the completion. -/
theorem initRow_cases {n : Nat} {m : MicroStep} (h : initRow n = some m) :
    (∃ k, m = .call k) ∨ m = .gpiods ∨ m = .finish := by
  have hmem : m ∈ initTable := List.mem_of_getElem? h
  simp only [initTable, List.mem_cons, List.not_mem_nil, or_false] at hmem
  obtain rfl | rfl | rfl | rfl | rfl | rfl := hmem <;> simp

/-- A collaborator call spares PERIPHERAL and the mock and adds its own entry to the trace. -/
theorem call_sparesPeripheral {k : Collaborator} {s t : State} (h : microStep (.call k) s = .next t) :
    t.periph = s.periph ∧ t.turns = s.turns ∧ t.mock = s.mock ∧ ∃ c r, t.trace = s.trace ++ [.call c r] := by
  simp only [microStep, callStep] at h
  rw [callReply_same k s] at h
  split at h <;> cases h <;> exact ⟨rfl, rfl, rfl, _, _, rfl⟩

/-- Settles O48: a call and the GPIO action add their entry, the completion adds none. -/
theorem initMakesNoRegisterAccess : Obligations.InitMakesNoRegisterAccess := by
  intro s t speed _ hbusy h
  obtain ⟨-, ⟨hidle, -⟩ | ⟨-, -, m, hrow, hm⟩⟩ := exec_next h
  · exact absurd (hbusy.symm.trans hidle) (by decide)
  obtain ⟨k, rfl⟩ | rfl | rfl := initRow_cases hrow
  · obtain ⟨hp, ht, hk, htrace⟩ := call_sparesPeripheral hm
    exact ⟨hp, ht, hk, .inr htrace⟩
  · cases hm
    exact ⟨rfl, rfl, rfl, .inr ⟨_, _, rfl⟩⟩
  · cases hm
    exact ⟨rfl, rfl, rfl, .inl rfl⟩

end Sys2Proof.Machine

/-! Proofs of the statements of 70_reset_and_hazards.md: INIT ends by itself (R246), and when HOST may use `RDATA`
(R249). -/

namespace Sys2Proof.Machine

/-! ### INIT ends by itself (70_reset_and_hazards.md R246) -/

/-- In `t` INIT has completed under the parameters `c`, with `ST_OK` or with the value of a collaborator that failed,
whose call ends the trace. -/
def InitEnded (c : Config) (t : State) : Prop :=
  t.eng.busy = false ∧
    (t.eng.status = c.stOk ∨ ∃ k, callFails c k t.eng.status = true ∧
      t.trace.getLast? = some (.call (callRecord k t) (some t.eng.status)))

/-- From `s` INIT completes after at most `k` steps. -/
def InitEndsWithin (k : Nat) (s : State) : Prop := ∃ n t, n ≤ k ∧ stepN n s = .next t ∧ InitEnded s.cfg t

section
variable {s t : State} {speed : Word} {n k : Nat}

theorem InitEnded.endsWithin (h : InitEnded s.cfg s) (k : Nat) : InitEndsWithin k s :=
  ⟨0, s, k.zero_le, stepN_zero s, h⟩

/-- A step after which INIT completes. -/
theorem InitEndsWithin.of_step (hstep : step s = .next t) (hcfg : t.cfg = s.cfg) (h : InitEndsWithin k t) :
    InitEndsWithin (k + 1) s := by
  obtain ⟨n, u, hn, hrun, hended⟩ := h
  exact ⟨n + 1, u, by omega, by rw [stepN_succ, hstep, andThen_next, hrun], hcfg ▸ hended⟩

/-- A call that completes INIT ends it with the value that failed (45_init.md R192). -/
theorem call_initEnded {c : Collaborator} (hw : s.cfg.wf = true) (h : microStep (.call c) s = .next t)
    (hs : s.eng.busy = true) (ht : t.eng.busy = false) : InitEnded t.cfg t := by
  have hframe := microStep_frame hw h
  obtain ⟨hfails, htrace⟩ := call_completes h hs ht
  refine ⟨ht, .inr ⟨c, hframe.cfg ▸ hfails, ?_⟩⟩
  rw [htrace, List.getLast?_concat, callRecord_congr c hframe.cfg hframe.speed]

/-- A micro-step that leaves `BUSY` at 1 and moves on leads to the next row of the same command. -/
theorem MicroFrame.running_succ {i : Instr} (h : MicroFrame s t) (hrun : Running i n s) (hb : t.eng.busy = true)
    (hupc : t.eng.upc = s.eng.upc + 1) : Running i (n + 1) t := by
  obtain ⟨hw, -, hl, rfl⟩ := hrun
  exact ⟨h.cfg ▸ hw, hb, h.latched.trans hl, hupc⟩

/-- A collaborator always answers (45_init.md R191). -/
theorem call_answers (c : Collaborator) (s : State) : ∃ t, microStep (.call c) s = .next t := by
  simp only [microStep, callStep]
  split <;> exact ⟨_, rfl⟩

/-- A call that leaves `BUSY` at 1 moves on. -/
theorem call_moves_on {c : Collaborator} (hw : s.cfg.wf = true) (h : microStep (.call c) s = .next t)
    (hb : t.eng.busy = true) : t.eng.upc = s.eng.upc + 1 := by
  obtain ⟨v, heng, -⟩ := microStep_engine hw h
  rw [heng] at hb ⊢
  simp only [engineAfter] at hb ⊢
  split at hb
  · cases hb
  · rw [if_neg ‹_›]

/-- Before its last step INIT's row is a call or the GPIO action (45_init.md R192). -/
theorem initRow_before_finish (h : n < 5) : (∃ c, initRow n = some (.call c)) ∨ initRow n = some .gpiods := by
  obtain ⟨m, hrow⟩ := rowOf_isSome (i := .init 0#32) (n := n) (.inl h.le)
  obtain ⟨c, rfl⟩ | rfl | rfl := initRow_cases hrow
  · exact .inl ⟨c, hrow⟩
  · exact .inr hrow
  · exact absurd (row_finish hrow).2 h.ne

/-- From each of its steps INIT runs down its table to the end, unless a call ends it earlier. -/
theorem init_endsWithin (hn : n ≤ 5) (hrun : Running (.init speed) n s) (hin : s.input = none) :
    InitEndsWithin (6 - n) s := by
  induction hn using Nat.decreasingInduction generalizing s with
  | self =>
    have hstep := (step_running hrun hin).trans (exec_row (m := .finish) hrun rfl)
    exact .of_step hstep rfl (InitEnded.endsWithin ⟨rfl, .inl rfl⟩ 0)
  | of_succ n hlt ih =>
    have ⟨hw, hbusy, _, _⟩ := hrun
    have hleft : 6 - n = 6 - (n + 1) + 1 := by omega
    have after_row {m : MicroStep} {t : State} (hrow : initRow n = some m) (hm : microStep m s = .next t)
        (h : InitEndsWithin (6 - (n + 1)) t) : InitEndsWithin (6 - n) s :=
      hleft ▸ h.of_step ((step_running hrun hin).trans ((exec_row hrun hrow).trans hm)) (microStep_frame hw hm).cfg
    have moves_on {m : MicroStep} {t : State} (hm : microStep m s = .next t) (hb : t.eng.busy = true)
        (hupc : t.eng.upc = s.eng.upc + 1) : InitEndsWithin (6 - (n + 1)) t :=
      have hframe := microStep_frame hw hm
      ih (hframe.running_succ hrun hb hupc) (hframe.input.trans hin)
    obtain ⟨c, hrow⟩ | hrow := initRow_before_finish hlt
    · obtain ⟨t, hm⟩ := call_answers c s
      refine after_row hrow hm ?_
      cases hb : t.eng.busy with
      | true => exact moves_on hm hb (call_moves_on hw hm hb)
      | false => exact (call_initEnded hw hm hbusy hb).endsWithin _
    · exact after_row hrow rfl (moves_on (m := .gpiods) rfl hbusy rfl)

end

/-- Settles O40: issue puts INIT at step 0, six steps from the end of its table. -/
theorem initAlwaysCompletes : Obligations.InitAlwaysCompletes := by
  intro s speed hidle hin
  simp only [issueAndRun_idle hidle]
  exact init_endsWithin (n := 0) (by omega) ⟨hidle.1, rfl, rfl, rfl⟩ hin

/-! ### What HOST may use (10_state.md R27, 70_reset_and_hazards.md R249) -/

section
variable {s t : State} {b : Byte}

theorem hostRdata_eq_some_iff :
    hostRdata s = some b ↔
      s.eng.busy = false ∧ s.eng.op = 0x03#8 ∧ s.eng.status = s.cfg.stOk ∧ s.eng.rdata = b := by
  simp [hostRdata, and_assoc]

theorem hostRdata_eq_none_of_status (h : s.eng.status ≠ s.cfg.stOk) : hostRdata s = none := by
  simp [hostRdata, h]

/-- While a command runs HOST may use neither result. -/
theorem host_uses_nothing_while_busy (h : s.eng.busy = true) : hostRdata s = none ∧ hostStatus s = none := by
  simp [hostRdata, hostStatus, h]

theorem hostStatus_of_idle {i : Instr} (hb : s.eng.busy = false) (hl : latched s.eng = some i) :
    hostStatus s = some s.eng.status := by
  simp [hostStatus, hb, hl]

/-- What HOST may use of `RDATA` depends on the engine and on the parameters only. -/
theorem hostRdata_congr (heng : t.eng = s.eng) (hcfg : t.cfg = s.cfg) : hostRdata t = hostRdata s := by
  simp [hostRdata, heng, hcfg]

/-- A step of an idle engine issues a command or leaves what HOST may use of `RDATA`. -/
theorem step_idle_hostRdata (h : step s = .next t) (hb : s.eng.busy = false) :
    t.eng.busy = true ∨ hostRdata t = hostRdata s := by
  obtain ⟨-, -, -, i, rfl⟩ | ⟨-, i, b, -, -, rfl⟩ | ⟨-, buf, -, rfl⟩ | ⟨-, -, rfl⟩ | ⟨-, -, rfl⟩ | ⟨hbusy, -⟩ :=
    step_next h
  · exact .inl rfl
  · exact .inr rfl
  · exact .inr rfl
  · exact .inr rfl
  · exact .inr (hostRdata_congr (hostTurn_eng s) (hostTurn_cfg s))
  · exact absurd (hbusy.symm.trans hb) (by decide)

/-- The step of a busy REGRD that clears `BUSY` is its evaluation (44_regrd.md R181 step 26). -/
theorem regrd_completes_at_eval (h : step s = .next t) (hb : s.eng.busy = true) (hop : s.eng.op = 0x03#8)
    (hidle : t.eng.busy = false) : s.eng.upc = 26 := by
  have hdone := (completionHappensOnlyAtTheseSteps s t h hb).1 hidle
  obtain ⟨hn, -⟩ : s.eng.upc = 26 ∧ _ := by simpa [hop] using hdone
  exact hn

/-- The evaluation of a command completes it, keeping `RDATA` and the parameters. -/
theorem eval_completes (hw : s.cfg.wf = true) (h : microStep .eval s = .next t) :
    t.eng.busy = false ∧ t.eng.rdata = s.eng.rdata ∧ latched t.eng = latched s.eng ∧ t.cfg = s.cfg := by
  obtain ⟨v, heng, -⟩ := microStep_engine hw h
  have hframe := microStep_frame hw h
  exact ⟨heng ▸ rfl, heng ▸ rfl, hframe.latched, hframe.cfg⟩

end

/-- Settles O52: an idle engine gives HOST no new byte, and a busy one does so only by the evaluation of a REGRD, which
keeps the popped byte. -/
theorem rdataTrustedOnlyAfterOk : Obligations.RdataTrustedOnlyAfterOk := by
  refine ⟨fun s t b h hused => ?_, fun s t addr reg hrun h => ?_⟩
  · obtain ⟨hidle, hop, hok, hbyte⟩ := hostRdata_eq_some_iff.1 hused
    cases hb : s.eng.busy with
    | false =>
      have hsame := (step_idle_hostRdata h hb).resolve_left (by simp [hidle])
      exact .inr ⟨rfl, hsame ▸ hused⟩
    | true =>
      obtain ⟨hw, i, m, -, -, hm⟩ := step_busy h hb
      have hframe := microStep_frame hw hm
      have hregrd : s.eng.op = 0x03#8 := hframe.op ▸ hop
      have hn := regrd_completes_at_eval h hb hregrd hidle
      have hkept := (rdataWrittenOnlyByPop s t h).1 (by omega)
      exact .inl ⟨rfl, hregrd, hn, hidle, hframe.cfg ▸ hok, hkept ▸ hbyte⟩
  · have ⟨hw, hb, hl, _⟩ := hrun
    obtain ⟨hidle, hkept, hlatched, hcfg⟩ := eval_completes hw ((exec_row hrun rfl).symm.trans h)
    have hl' := hlatched.trans hl
    refine ⟨hostStatus_of_idle hidle hl', fun hok => ?_, fun hbad => ?_,
      host_uses_nothing_while_busy hb⟩
    · exact hostRdata_eq_some_iff.2 ⟨hidle, latched_opcode hl', hcfg ▸ hok, hkept⟩
    · exact hostRdata_eq_none_of_status (hcfg ▸ hbad)

end Sys2Proof.Machine

/-! Proofs of the statements that belong to no one instruction: the machine after reset, descriptors written out, and
what one step does by who acts in it. -/

namespace Sys2Proof

/-! ### Words 0 that encode no command, by the rule they break (30_encoding.md R102, R105, R107) -/

/-- An operation code that no row of the opcode map has is reserved (30_encoding.md R107). -/
theorem decode_reservedOpcode {w : Word} (h : ∀ r ∈ opcodeTable, fieldOpc w ≠ fieldOpc r.pattern)
    (rest : List Byte) : decode (bytesOfWord w ++ rest) = .error .reservedOpcode := by
  have h1 : fieldOpc w ≠ 0x01#8 := h _ (.head _)
  have h2 : fieldOpc w ≠ 0x02#8 := h _ (.tail _ (.head _))
  have h3 : fieldOpc w ≠ 0x03#8 := h _ (.tail _ (.tail _ (.head _)))
  have h4 : fieldOpc w ≠ 0x04#8 := h _ (.tail _ (.tail _ (.tail _ (.head _))))
  simp [decode, takeWord_bytesOfWord, h1, h2, h3, h4]

/-- A word with a row's operation code that is not of the row has a nonzero bit where the row wants zeros
(30_encoding.md R102). -/
theorem decode_mustBeZero {w : Word} {r : OpcodeRow} (hr : r ∈ opcodeTable) (hopc : fieldOpc w = fieldOpc r.pattern)
    (hrow : w &&& r.mask ≠ r.pattern) (rest : List Byte) :
    decode (bytesOfWord w ++ rest) = .error .mustBeZero := by
  simp only [opcodeTable, List.mem_cons, List.not_mem_nil, or_false] at hr
  obtain rfl | rfl | rfl | rfl := hr
  · exact absurd (and_opcMask_eq_iff.2 hopc) hrow
  · have hopc : fieldOpc w = 0x02#8 := hopc
    have hval : fieldVal w ≠ 0#8 := fun hval => hrow (and_opcValMask_eq_iff.2 ⟨hopc, hval⟩)
    simp [decode, takeWord_bytesOfWord, hopc, hval]
  · have hopc : fieldOpc w = 0x03#8 := hopc
    have hval : fieldVal w ≠ 0#8 := fun hval => hrow (and_opcValMask_eq_iff.2 ⟨hopc, hval⟩)
    simp [decode, takeWord_bytesOfWord, hopc, hval]
  · have hopc : fieldOpc w = 0x04#8 := hopc
    have hzero : ¬ (fieldVal w = 0#8 ∧ fieldReg w = 0#8 ∧ fieldAddr w = 0#8) := fun ⟨hval, hreg, haddr⟩ =>
      hrow ((word_and_ones w).trans (word0_init_fields hopc hval hreg haddr 0#32).symm)
    simp [decode, takeWord_bytesOfWord, hopc, hzero]

/-- Settles O2: the four descriptors are the encodings of their commands, and each of the other words breaks the rule it
is listed under. -/
theorem descriptorWordsOfTheSpec : Obligations.DescriptorWordsOfTheSpec := by
  refine ⟨decode_encode (.regwr 0x50#8 0x10#8 0xAB#8) [], decode_encode (.bufwr 0x50#8 0x10#8 3#32) [],
    decode_encode (.regrd 0x50#8 0x20#8) [], decode_encode (.init 400000#32) [], fun w hw w1 => ?_, fun w hw w1 => ?_⟩
  · have hreserved : ∀ w ∈ [0x00000000#32, 0x00000005#32, 0xAB1050FF#32],
        ∀ r ∈ opcodeTable, fieldOpc w ≠ fieldOpc r.pattern := by
      simp [opcodeTable, fieldOpc, bitField]
    exact decode_reservedOpcode (hreserved w hw) _
  · have hnonzero : ∀ w ∈ [0x01105002#32, 0xFF205003#32, 0x00000104#32, 0x00100004#32],
        ∃ r ∈ opcodeTable, fieldOpc w = fieldOpc r.pattern ∧ w &&& r.mask ≠ r.pattern := by
      simp [opcodeTable, fieldOpc, bitField]
    obtain ⟨r, hr, hopc, hrow⟩ := hnonzero w hw
    exact decode_mustBeZero hr hopc hrow _

/-- A table word stands for the command its slot's bytes decode to. -/
theorem decode_tableBytes {nbits w : Nat} {i : Instr} (h : decodeTableWord nbits w = some i) :
    ∃ rest, decode (tableBytes nbits w) = .ok (i, rest) := by
  unfold decodeTableWord at h
  split at h
  · rename_i j rest hd
    cases h
    exact ⟨rest, hd⟩
  · cases h

end Sys2Proof

namespace Sys2Proof.Machine

/-! ### The machine after reset (10_state.md R48, 00_scope.md R7) -/

/-- The defaults of 00_scope.md R7 meet its constraints (log 7). -/
theorem default_wf : Config.default.wf = true := by decide

/-- Settles O1: `State.reset` gives each of these fields its empty value, and an empty space holds no byte. -/
theorem resetLeavesTheEngineIdle : Obligations.ResetLeavesTheEngineIdle :=
  ⟨rfl, fun _ => rfl, rfl, rfl, rfl, rfl, rfl, rfl⟩

/-- Settles O37: the default parameters are well-formed, no payload byte is listed, and no command runs. -/
theorem resetMeetsTheInvariant : Obligations.ResetMeetsTheInvariant :=
  ⟨default_wf, ⟨by simp [State.reset, Memory.wf], by simp [State.reset]⟩, fun hb => by cases hb⟩

/-! ### Whose turn it is -/

/-- While `BUSY` is 1 and nothing arrives, ENGINE goes on with the latched command, whatever the configuration. -/
theorem step_latched {s : State} {i : Instr} (hb : s.eng.busy = true) (hin : s.input = none)
    (hl : latched s.eng = some i) : step s = exec i s := by
  simp [step, turn, hin, hb, resume, hl]

/-- While `BUSY` is 0 and nothing arrives, it is HOST's turn. -/
theorem step_hostTurn {s : State} (hb : s.eng.busy = false) (hin : s.input = none) : step s = .next (hostTurn s) := by
  simp [step, turn, hin, hb]

theorem hostTurn_cons {s : State} {a : HostAction} {rest : List HostAction} (h : s.host = a :: rest) :
    hostTurn s = { s with input := some a, host := rest } := by
  simp [hostTurn, h]

/-- Settles O8: a descriptor that arrives is decoded before it is issued; with none, ENGINE goes on. -/
theorem stepRunsTheDecodedCommand : Obligations.StepRunsTheDecodedCommand :=
  ⟨fun _ _ _ _ hb hin hd _ => step_present_command hin hb hd, fun _ _ hb hin hl => step_latched hb hin hl⟩

/-- Settles O9: a placed table word is a descriptor that has arrived at an idle engine. -/
theorem fetchWordRunsNext : Obligations.FetchWordRunsNext := by
  intro s nbits w i h
  obtain ⟨rest, hd⟩ := decode_tableBytes h
  exact step_present_command (s := s.withFetchWord nbits w) rfl rfl hd

/-- Settles O10: the turn is HOST's, and its list decides. -/
theorem idleMachineWaitsForHost : Obligations.IdleMachineWaitsForHost := by
  refine fun s hb hin => ⟨fun a rest hhost => ?_, step_idle_done hb hin⟩
  rw [step_hostTurn hb hin, hostTurn_cons hhost]

end Sys2Proof.Machine
